-- ==== Sys2Proof/Word.lean ====
section
/-! DEFINITION. The word types of the hardware. Every value is an unsigned bit vector (spec/00_scope.md R8, R9): bit 0 is
the least significant bit, `a ++ b` is concatenation with `a` in the high bits, exactly as `BitVec` has it. -/

namespace Sys2Proof

/-- A byte of memory or the contents of a general register (spec/10_state.md R20, R35). -/
abbrev Byte := BitVec 8

/-- A 16-bit value: an opcode, a keypad mask (spec/00_scope.md R6). -/
abbrev Word := BitVec 16

/-- A four-bit field of an opcode (spec/00_scope.md R14). -/
abbrev Nibble := BitVec 4

/-- The 4-bit index `x` or `y` that selects `V[x]` or `V[y]` (spec/30_encoding.md R95). -/
abbrev RegIdx := BitVec 4

/-- The 12-bit address field `nnn` (spec/30_encoding.md R91). -/
abbrev Addr12 := BitVec 12

/-- Bytes of memory, addresses 0x000 to 0xFFF (spec/00_scope.md R6, `MEM_SIZE`). -/
abbrev memSize : Nat := 4096

/-- Load address of the program and reset value of `pc` (spec/00_scope.md R6, `PROG_BASE`). -/
abbrev progBase : Nat := 0x200

/-- Entries of the call stack (spec/00_scope.md R6, `STACK_CAP`). -/
abbrev stackCap : Nat := 16

/-- Index of the flag register VF (spec/00_scope.md R6, `FLAG_REG`). -/
abbrev flagReg : RegIdx := 0xF#4

end Sys2Proof
end

