-- ==== Sys2Proof/Syntax.lean ====
section
/-! DEFINITION. The instructions: one constructor per row of spec/opcode_table.json (spec/30_encoding.md R93). Operands have
the widths of their fields (R91), so every term is encodable. `shr` and `shl` keep the ignored `y` field (R99), so that the
opcode of an instruction can be written back exactly. -/

namespace Sys2Proof

/-- The 35 instructions of spec/30_encoding.md R93, in the order of its table. -/
inductive Instr where
  /-- `HALT`, 0x0000 -/
  | halt
  /-- `CLS`, 0x00E0 -/
  | cls
  /-- `RET`, 0x00EE -/
  | ret
  /-- `JP nnn`, 0x1nnn -/
  | jp (nnn : Addr12)
  /-- `CALL nnn`, 0x2nnn -/
  | call (nnn : Addr12)
  /-- `SE Vx, kk`, 0x3xkk -/
  | seImm (x : RegIdx) (kk : Byte)
  /-- `SNE Vx, kk`, 0x4xkk -/
  | sneImm (x : RegIdx) (kk : Byte)
  /-- `SE Vx, Vy`, 0x5xy0 -/
  | seReg (x y : RegIdx)
  /-- `LD Vx, kk`, 0x6xkk -/
  | ldImm (x : RegIdx) (kk : Byte)
  /-- `ADD Vx, kk`, 0x7xkk -/
  | addImm (x : RegIdx) (kk : Byte)
  /-- `LD Vx, Vy`, 0x8xy0 -/
  | ldReg (x y : RegIdx)
  /-- `OR Vx, Vy`, 0x8xy1 -/
  | orReg (x y : RegIdx)
  /-- `AND Vx, Vy`, 0x8xy2 -/
  | andReg (x y : RegIdx)
  /-- `XOR Vx, Vy`, 0x8xy3 -/
  | xorReg (x y : RegIdx)
  /-- `ADD Vx, Vy`, 0x8xy4 -/
  | addReg (x y : RegIdx)
  /-- `SUB Vx, Vy`, 0x8xy5 -/
  | subReg (x y : RegIdx)
  /-- `SHR Vx`, 0x8xy6 -/
  | shr (x y : RegIdx)
  /-- `SUBN Vx, Vy`, 0x8xy7 -/
  | subnReg (x y : RegIdx)
  /-- `SHL Vx`, 0x8xyE -/
  | shl (x y : RegIdx)
  /-- `SNE Vx, Vy`, 0x9xy0 -/
  | sneReg (x y : RegIdx)
  /-- `LD I, nnn`, 0xAnnn -/
  | ldI (nnn : Addr12)
  /-- `JP V0, nnn`, 0xBnnn -/
  | jpV0 (nnn : Addr12)
  /-- `RND Vx, kk`, 0xCxkk -/
  | rnd (x : RegIdx) (kk : Byte)
  /-- `DRW Vx, Vy, n`, 0xDxyn -/
  | drw (x y : RegIdx) (n : Nibble)
  /-- `SKP Vx`, 0xEx9E -/
  | skp (x : RegIdx)
  /-- `SKNP Vx`, 0xExA1 -/
  | sknp (x : RegIdx)
  /-- `LD Vx, DT`, 0xFx07 -/
  | ldVxDT (x : RegIdx)
  /-- `LD Vx, K`, 0xFx0A -/
  | ldVxK (x : RegIdx)
  /-- `LD DT, Vx`, 0xFx15 -/
  | ldDTVx (x : RegIdx)
  /-- `LD ST, Vx`, 0xFx18 -/
  | ldSTVx (x : RegIdx)
  /-- `ADD I, Vx`, 0xFx1E -/
  | addIVx (x : RegIdx)
  /-- `LD F, Vx`, 0xFx29 -/
  | ldF (x : RegIdx)
  /-- `LD B, Vx`, 0xFx33 -/
  | ldB (x : RegIdx)
  /-- `LD [I], Vx`, 0xFx55 -/
  | storeRegs (x : RegIdx)
  /-- `LD Vx, [I]`, 0xFx65 -/
  | loadRegs (x : RegIdx)
  deriving DecidableEq, Repr

/-- The name of an instruction's row in spec/opcode_table.json. -/
def Instr.mnemonic : Instr → String
  | .halt => "HALT"
  | .cls => "CLS"
  | .ret => "RET"
  | .jp _ => "JP_NNN"
  | .call _ => "CALL_NNN"
  | .seImm _ _ => "SE_VX_KK"
  | .sneImm _ _ => "SNE_VX_KK"
  | .seReg _ _ => "SE_VX_VY"
  | .ldImm _ _ => "LD_VX_KK"
  | .addImm _ _ => "ADD_VX_KK"
  | .ldReg _ _ => "LD_VX_VY"
  | .orReg _ _ => "OR_VX_VY"
  | .andReg _ _ => "AND_VX_VY"
  | .xorReg _ _ => "XOR_VX_VY"
  | .addReg _ _ => "ADD_VX_VY"
  | .subReg _ _ => "SUB_VX_VY"
  | .shr _ _ => "SHR_VX"
  | .subnReg _ _ => "SUBN_VX_VY"
  | .shl _ _ => "SHL_VX"
  | .sneReg _ _ => "SNE_VX_VY"
  | .ldI _ => "LD_I_NNN"
  | .jpV0 _ => "JP_V0_NNN"
  | .rnd _ _ => "RND_VX_KK"
  | .drw _ _ _ => "DRW_VX_VY_N"
  | .skp _ => "SKP_VX"
  | .sknp _ => "SKNP_VX"
  | .ldVxDT _ => "LD_VX_DT"
  | .ldVxK _ => "LD_VX_K"
  | .ldDTVx _ => "LD_DT_VX"
  | .ldSTVx _ => "LD_ST_VX"
  | .addIVx _ => "ADD_I_VX"
  | .ldF _ => "LD_F_VX"
  | .ldB _ => "LD_B_VX"
  | .storeRegs _ => "LD_I_IND_VX"
  | .loadRegs _ => "LD_VX_I_IND"

end Sys2Proof
end

