-- ==== Sys2Proof/WellFormed.lean ====
section
/-! DEFINITION. Well-formedness of instructions. Every term of `Instr` is encodable by its operand types: there is no
reserved-but-defined encoding and no register an index cannot name (spec/30_encoding.md R95, R96), so nothing is checked
for the encoding. What the spec does call a property of "well-formed programs" (spec/10_state.md R22, R27;
spec/70_reset_and_hazards.md R281 a and b) is checked here, one instruction at a time. These checks are premises a claim
about a program may use; the decoder and the machine never consult them (log 29). -/

namespace Sys2Proof

/-- The target of a jump or call is even (spec/10_state.md R27, spec/70_reset_and_hazards.md R281 b). The indexed jump has no
target of its own: it depends on V0. -/
def Instr.evenTarget : Instr → Bool
  | .jp nnn => nnn.toNat % 2 == 0
  | .call nnn => nnn.toNat % 2 == 0
  | _ => true

/-- No flag-writing arithmetic instruction has VF as its `x`, so no result is lost under the flag (spec/10_state.md R22,
spec/41_load_alu.md R140, entry U3 of spec/93_implementation_defined.md). -/
def Instr.sparesFlag : Instr → Bool
  | .addReg x _ => x != flagReg
  | .subReg x _ => x != flagReg
  | .shr x _ => x != flagReg
  | .subnReg x _ => x != flagReg
  | .shl x _ => x != flagReg
  | _ => true

/-- The discipline of "well-formed programs" that one instruction can show. -/
def Instr.wellFormed (i : Instr) : Bool := i.evenTarget && i.sparesFlag

end Sys2Proof
end

