-- ==== Sys2Proof/Decode.lean ====
section
/-! DEFINITION. The opcode map of spec/30_encoding.md: the fields (R91), the decoder (R93, R94, R96), the encoder, and the
table of R93 as data. The decoder follows the table, which wins over the dispatch prose (R98, conflict C1). -/

namespace Sys2Proof

/-! ### Fields (R91) -/

/-- `h = op[15:12]`, the major opcode. -/
def opH (op : Word) : Nibble := op.extractLsb' 12 4

/-- `x = op[11:8]`. -/
def opX (op : Word) : RegIdx := op.extractLsb' 8 4

/-- `y = op[7:4]`. -/
def opY (op : Word) : RegIdx := op.extractLsb' 4 4

/-- `n = op[3:0]`. -/
def opN (op : Word) : Nibble := op.extractLsb' 0 4

/-- `kk = op[7:0]`. -/
def opKK (op : Word) : Byte := op.extractLsb' 0 8

/-- `nnn = op[11:0]`. -/
def opNNN (op : Word) : Addr12 := op.extractLsb' 0 12

/-! ### Decoder -/

/-- Why a byte sequence is no instruction: the group of spec/30_encoding.md R96 that its word falls in, or fewer than two
bytes (R90). -/
inductive DecodeError where
  /-- `h = 0` and the word is none of 0x0000, 0x00E0, 0x00EE -/
  | unrecognized0
  /-- 0x5xyn with `n` not 0 -/
  | unrecognized5
  /-- 0x8xyn with `n` in 8, 9, A, B, C, D, F -/
  | unrecognized8
  /-- 0x9xyn with `n` not 0 -/
  | unrecognized9
  /-- 0xExkk with `kk` not in 9E, A1 -/
  | unrecognizedE
  /-- 0xFxkk with `kk` none of the nine minor opcodes -/
  | unrecognizedF
  /-- fewer than the two bytes every instruction has -/
  | truncated
  deriving DecidableEq, Repr

/-- The words with `h = 0`, decided by the whole word (R94). -/
def decode0 (op : Word) : Except DecodeError Instr :=
  if op = 0x0000#16 then .ok .halt
  else if op = 0x00E0#16 then .ok .cls
  else if op = 0x00EE#16 then .ok .ret
  else .error .unrecognized0

/-- The words with `h = 8`, decided by `n` (R94). -/
def decode8 (op : Word) : Except DecodeError Instr :=
  match (opN op).toNat with
  | 0x0 => .ok (.ldReg (opX op) (opY op))
  | 0x1 => .ok (.orReg (opX op) (opY op))
  | 0x2 => .ok (.andReg (opX op) (opY op))
  | 0x3 => .ok (.xorReg (opX op) (opY op))
  | 0x4 => .ok (.addReg (opX op) (opY op))
  | 0x5 => .ok (.subReg (opX op) (opY op))
  | 0x6 => .ok (.shr (opX op) (opY op))
  | 0x7 => .ok (.subnReg (opX op) (opY op))
  | 0xE => .ok (.shl (opX op) (opY op))
  | _ => .error .unrecognized8

/-- The words with `h = E`, decided by `kk` (R94). -/
def decodeE (op : Word) : Except DecodeError Instr :=
  if opKK op = 0x9E#8 then .ok (.skp (opX op))
  else if opKK op = 0xA1#8 then .ok (.sknp (opX op))
  else .error .unrecognizedE

/-- The words with `h = F`, decided by `kk` (R94). -/
def decodeF (op : Word) : Except DecodeError Instr :=
  if opKK op = 0x07#8 then .ok (.ldVxDT (opX op))
  else if opKK op = 0x0A#8 then .ok (.ldVxK (opX op))
  else if opKK op = 0x15#8 then .ok (.ldDTVx (opX op))
  else if opKK op = 0x18#8 then .ok (.ldSTVx (opX op))
  else if opKK op = 0x1E#8 then .ok (.addIVx (opX op))
  else if opKK op = 0x29#8 then .ok (.ldF (opX op))
  else if opKK op = 0x33#8 then .ok (.ldB (opX op))
  else if opKK op = 0x55#8 then .ok (.storeRegs (opX op))
  else if opKK op = 0x65#8 then .ok (.loadRegs (opX op))
  else .error .unrecognizedF

/-- Decode one opcode (R93, R94): it reads nothing but the 16 bits of `op`. The last arm is `h = F`: a nibble has no value
above it. -/
def decodeWord (op : Word) : Except DecodeError Instr :=
  match (opH op).toNat with
  | 0x0 => decode0 op
  | 0x1 => .ok (.jp (opNNN op))
  | 0x2 => .ok (.call (opNNN op))
  | 0x3 => .ok (.seImm (opX op) (opKK op))
  | 0x4 => .ok (.sneImm (opX op) (opKK op))
  | 0x5 => if opN op = 0#4 then .ok (.seReg (opX op) (opY op)) else .error .unrecognized5
  | 0x6 => .ok (.ldImm (opX op) (opKK op))
  | 0x7 => .ok (.addImm (opX op) (opKK op))
  | 0x8 => decode8 op
  | 0x9 => if opN op = 0#4 then .ok (.sneReg (opX op) (opY op)) else .error .unrecognized9
  | 0xA => .ok (.ldI (opNNN op))
  | 0xB => .ok (.jpV0 (opNNN op))
  | 0xC => .ok (.rnd (opX op) (opKK op))
  | 0xD => .ok (.drw (opX op) (opY op) (opN op))
  | 0xE => decodeE op
  | _ => decodeF op

/-- The opcode that two consecutive bytes make, the lower address in the high half (spec/20_memory.md R60). -/
def combineBytes (hi lo : Byte) : Word := hi ++ lo

/-- Decode the instruction at the front of a byte sequence and give the bytes after it; an instruction is two bytes, high
byte first (R90). -/
def decode : List Byte → Except DecodeError (Instr × List Byte)
  | hi :: lo :: rest => (decodeWord (combineBytes hi lo)).map fun i => (i, rest)
  | _ => .error .truncated

/-! ### Encoder -/

/-- Format `A`: `h ++ nnn` (R92). -/
def encA (h : Nibble) (nnn : Addr12) : Word := h ++ nnn

/-- Format `XK`: `h ++ x ++ kk` (R92). -/
def encXK (h : Nibble) (x : RegIdx) (kk : Byte) : Word := h ++ (x ++ kk : Addr12)

/-- Formats `XY` and `XYN`: `h ++ x ++ y ++ n` (R92). -/
def encXYN (h : Nibble) (x y : RegIdx) (n : Nibble) : Word := h ++ (x ++ (y ++ n : Byte) : Addr12)

/-- The opcode of an instruction, written from the table of R93. -/
def encode : Instr → Word
  | .halt => 0x0000#16
  | .cls => 0x00E0#16
  | .ret => 0x00EE#16
  | .jp nnn => encA 0x1#4 nnn
  | .call nnn => encA 0x2#4 nnn
  | .seImm x kk => encXK 0x3#4 x kk
  | .sneImm x kk => encXK 0x4#4 x kk
  | .seReg x y => encXYN 0x5#4 x y 0x0#4
  | .ldImm x kk => encXK 0x6#4 x kk
  | .addImm x kk => encXK 0x7#4 x kk
  | .ldReg x y => encXYN 0x8#4 x y 0x0#4
  | .orReg x y => encXYN 0x8#4 x y 0x1#4
  | .andReg x y => encXYN 0x8#4 x y 0x2#4
  | .xorReg x y => encXYN 0x8#4 x y 0x3#4
  | .addReg x y => encXYN 0x8#4 x y 0x4#4
  | .subReg x y => encXYN 0x8#4 x y 0x5#4
  | .shr x y => encXYN 0x8#4 x y 0x6#4
  | .subnReg x y => encXYN 0x8#4 x y 0x7#4
  | .shl x y => encXYN 0x8#4 x y 0xE#4
  | .sneReg x y => encXYN 0x9#4 x y 0x0#4
  | .ldI nnn => encA 0xA#4 nnn
  | .jpV0 nnn => encA 0xB#4 nnn
  | .rnd x kk => encXK 0xC#4 x kk
  | .drw x y n => encXYN 0xD#4 x y n
  | .skp x => encXK 0xE#4 x 0x9E#8
  | .sknp x => encXK 0xE#4 x 0xA1#8
  | .ldVxDT x => encXK 0xF#4 x 0x07#8
  | .ldVxK x => encXK 0xF#4 x 0x0A#8
  | .ldDTVx x => encXK 0xF#4 x 0x15#8
  | .ldSTVx x => encXK 0xF#4 x 0x18#8
  | .addIVx x => encXK 0xF#4 x 0x1E#8
  | .ldF x => encXK 0xF#4 x 0x29#8
  | .ldB x => encXK 0xF#4 x 0x33#8
  | .storeRegs x => encXK 0xF#4 x 0x55#8
  | .loadRegs x => encXK 0xF#4 x 0x65#8

/-- The high byte of an opcode, the one at the lower address (R90). -/
def highByte (op : Word) : Byte := op.extractLsb' 8 8

/-- The low byte of an opcode, the one at the higher address (R90). -/
def lowByte (op : Word) : Byte := op.extractLsb' 0 8

/-- The bytes of an opcode in memory order (R90). -/
def opcodeBytes (op : Word) : List Byte := [highByte op, lowByte op]

/-! ### The table of R93 as data -/

/-- One row of the opcode map: a word `op` selects it when `op AND mask = pattern`. -/
structure OpcodeRow where
  mnemonic : String
  pattern : Word
  mask : Word
  deriving DecidableEq, Repr

/-- The word `op` selects the row (R93). -/
abbrev OpcodeRow.selects (row : OpcodeRow) (op : Word) : Prop := op &&& row.mask = row.pattern

/-- Rows of format `W`, mask 0xFFFF (R92). -/
def rowsW : List OpcodeRow :=
  [⟨"HALT", 0x0000#16, 0xFFFF#16⟩, ⟨"CLS", 0x00E0#16, 0xFFFF#16⟩, ⟨"RET", 0x00EE#16, 0xFFFF#16⟩]

/-- Rows of format `A`, mask 0xF000 (R92). -/
def rowsA : List OpcodeRow :=
  [⟨"JP_NNN", 0x1000#16, 0xF000#16⟩, ⟨"CALL_NNN", 0x2000#16, 0xF000#16⟩, ⟨"LD_I_NNN", 0xA000#16, 0xF000#16⟩,
   ⟨"JP_V0_NNN", 0xB000#16, 0xF000#16⟩]

/-- Rows of formats `XK` and `XYN`, mask 0xF000 (R92). -/
def rowsXK : List OpcodeRow :=
  [⟨"SE_VX_KK", 0x3000#16, 0xF000#16⟩, ⟨"SNE_VX_KK", 0x4000#16, 0xF000#16⟩, ⟨"LD_VX_KK", 0x6000#16, 0xF000#16⟩,
   ⟨"ADD_VX_KK", 0x7000#16, 0xF000#16⟩, ⟨"RND_VX_KK", 0xC000#16, 0xF000#16⟩, ⟨"DRW_VX_VY_N", 0xD000#16, 0xF000#16⟩]

/-- Rows of format `XY`, mask 0xF00F (R92). -/
def rowsXY : List OpcodeRow :=
  [⟨"SE_VX_VY", 0x5000#16, 0xF00F#16⟩, ⟨"LD_VX_VY", 0x8000#16, 0xF00F#16⟩, ⟨"OR_VX_VY", 0x8001#16, 0xF00F#16⟩,
   ⟨"AND_VX_VY", 0x8002#16, 0xF00F#16⟩, ⟨"XOR_VX_VY", 0x8003#16, 0xF00F#16⟩, ⟨"ADD_VX_VY", 0x8004#16, 0xF00F#16⟩] ++
  [⟨"SUB_VX_VY", 0x8005#16, 0xF00F#16⟩, ⟨"SHR_VX", 0x8006#16, 0xF00F#16⟩, ⟨"SUBN_VX_VY", 0x8007#16, 0xF00F#16⟩,
   ⟨"SHL_VX", 0x800E#16, 0xF00F#16⟩, ⟨"SNE_VX_VY", 0x9000#16, 0xF00F#16⟩]

/-- Rows of format `X`, mask 0xF0FF (R92). -/
def rowsX : List OpcodeRow :=
  [⟨"SKP_VX", 0xE09E#16, 0xF0FF#16⟩, ⟨"SKNP_VX", 0xE0A1#16, 0xF0FF#16⟩, ⟨"LD_VX_DT", 0xF007#16, 0xF0FF#16⟩,
   ⟨"LD_VX_K", 0xF00A#16, 0xF0FF#16⟩, ⟨"LD_DT_VX", 0xF015#16, 0xF0FF#16⟩, ⟨"LD_ST_VX", 0xF018#16, 0xF0FF#16⟩] ++
  [⟨"ADD_I_VX", 0xF01E#16, 0xF0FF#16⟩, ⟨"LD_F_VX", 0xF029#16, 0xF0FF#16⟩, ⟨"LD_B_VX", 0xF033#16, 0xF0FF#16⟩,
   ⟨"LD_I_IND_VX", 0xF055#16, 0xF0FF#16⟩, ⟨"LD_VX_I_IND", 0xF065#16, 0xF0FF#16⟩]

/-- The complete map, 35 rows (R93). -/
def opcodeTable : List OpcodeRow := rowsW ++ rowsA ++ rowsXK ++ rowsXY ++ rowsX

/-! ### Words as spec/opcode_table.json numbers them -/

/-- The word whose bits are the low `nbits` bits of `w`; every bit above is 0. Bit 0 is the least significant bit of the
one 16-bit word an instruction has. -/
def tableWord (nbits w : Nat) : Word := BitVec.ofNat 16 (w % 2 ^ nbits)

/-- The instruction the decoder reads from the bytes of a table word, laid out as the hardware stores them. -/
def decodeTableWord (nbits w : Nat) : Option Instr :=
  match decode (opcodeBytes (tableWord nbits w)) with
  | .ok (i, _) => some i
  | .error _ => none

end Sys2Proof
end

