-- ==== Sys2Proof/Config.lean ====
section
/-! DEFINITION. What an implementation fixes (spec/00_scope.md R7) and the free values that the outside world supplies
(spec/10_state.md R47 to R49). The decided default values stand in Sys2Proof/Machine/Defaults.lean. -/

namespace Sys2Proof

/-- The two framebuffer resolutions the source names, rows by columns (spec/10_state.md R42, decision D1). -/
inductive Display where
  | rows64cols128
  | rows128cols256
  deriving DecidableEq, Repr

/-- `FB_HEIGHT`, the number of rows. -/
def Display.height : Display → Nat
  | .rows64cols128 => 64
  | .rows128cols256 => 128

/-- `FB_WIDTH`, the number of columns. -/
def Display.width : Display → Nat
  | .rows64cols128 => 128
  | .rows128cols256 => 256

/-- `TIMER_TICK` (spec/10_state.md R32, decision D8). -/
inductive TimerTick where
  | off
  | on
  deriving DecidableEq, Repr

/-- `INVALID_OPCODE_POLICY` (spec/30_encoding.md R97, decision D9). -/
inductive OpcodePolicy where
  | fatal
  | nop
  deriving DecidableEq, Repr

/-- `FONT`, 80 bytes: 16 glyphs of 5 bytes (spec/10_state.md R40, R41). -/
abbrev Font := Vector Byte 80

/-- A width in bits that is `least` or more; anything narrower is no legal value of the parameter (spec/00_scope.md R7). -/
abbrev WidthFrom (least : Nat) := { bits : Nat // least ≤ bits }

/-- The parameters of spec/00_scope.md R7, each with exactly its legal values. They are fixed for a run; State carries them so
that a statement over all states covers every legal configuration (log 5). -/
structure Config where
  /-- `FB_HEIGHT` and `FB_WIDTH`, paired -/
  display : Display
  /-- `PC_WIDTH`, and with it `STACK_ENTRY_WIDTH` -/
  pcWidth : WidthFrom 13
  /-- `I_WIDTH` -/
  iWidth : WidthFrom 12
  /-- the 75 bytes of `FONT` after glyph 0 -/
  glyphs1toF : Vector Byte 75
  /-- `TIMER_TICK` -/
  timerTick : TimerTick
  /-- `INVALID_OPCODE_POLICY` -/
  invalidOpcodePolicy : OpcodePolicy
  deriving DecidableEq, Repr

/-- `STACK_ENTRY_WIDTH`: its only legal value is `PC_WIDTH` (spec/00_scope.md R7, decision D24). -/
abbrev Config.stackEntryWidth (cfg : Config) : WidthFrom 13 := cfg.pcWidth

/-- A step of an outside agent (spec/70_reset_and_hazards.md R271). -/
inductive OutsideStep where
  /-- the input collaborator delivers a key press with key value `k` (spec/10_state.md R49) -/
  | keyPress (k : Nibble)
  /-- the host's shutdown signal (spec/60_exceptions.md R238) -/
  | cancel
  /-- the timer tick (spec/60_exceptions.md R245) -/
  | tick
  deriving DecidableEq, Repr

/-- Whose turn it is at an instruction boundary (spec/60_exceptions.md R239). -/
inductive Turn where
  | cpu
  | outside (e : OutsideStep)
  deriving DecidableEq, Repr

/-- FREE VALUE. The keypad mask of the `n`-th free query: any 16 bits, under no law (spec/10_state.md R47, U10, log 1). -/
opaque Config.freeMask : Nat → Word

/-- FREE VALUE. The random byte of the `n`-th free draw: any 8 bits, under no law (spec/10_state.md R48, U9, log 1). -/
opaque Config.freeByte : Nat → Byte

/-- FREE VALUE. What the outside world does at the `n`-th free moment of a key wait: nothing, or any outside step
(spec/10_state.md R49, U11, log 3). -/
opaque Config.freeOutside : Nat → Option OutsideStep

end Sys2Proof
end

