-- ==== Sys2Proof/Machine/Defaults.lean ====
section
/-! DEFINITION. The font of a configuration, and the decided values of the parameters of spec/00_scope.md R7. -/

namespace Sys2Proof

/-- Glyph 0, the five bytes of `FONT` that the source fixes (spec/00_scope.md R7, spec/10_state.md R41). -/
def glyph0 : Vector Byte 5 := #v[0xF0, 0x90, 0x90, 0x90, 0xF0]

/-- `FONT`: glyph 0 is the source's, the rest is the parameter's (spec/00_scope.md R7). -/
def Config.font (cfg : Config) : Font := glyph0 ++ cfg.glyphs1toF

namespace Machine

/-- Glyphs 1 to 3. PRESUMED, the customary CHIP-8 font (spec/10_state.md R41, G1, log 6). -/
def fontBytes1to3 : List Byte :=
  [0x20, 0x60, 0x20, 0x20, 0x70,
   0xF0, 0x10, 0xF0, 0x80, 0xF0,  0xF0, 0x10, 0xF0, 0x10, 0xF0]

/-- Glyphs 4 to 7. PRESUMED (G1, log 6). -/
def fontBytes4to7 : List Byte :=
  [0x90, 0x90, 0xF0, 0x10, 0x10,  0xF0, 0x80, 0xF0, 0x10, 0xF0,
   0xF0, 0x80, 0xF0, 0x90, 0xF0,  0xF0, 0x10, 0x20, 0x40, 0x40]

/-- Glyphs 8 to B. PRESUMED (G1, log 6). -/
def fontBytes8toB : List Byte :=
  [0xF0, 0x90, 0xF0, 0x90, 0xF0,  0xF0, 0x90, 0xF0, 0x10, 0xF0,
   0xF0, 0x90, 0xF0, 0x90, 0x90,  0xE0, 0x90, 0xE0, 0x90, 0xE0]

/-- Glyphs C to F. PRESUMED (G1, log 6). -/
def fontBytesCtoF : List Byte :=
  [0xF0, 0x80, 0x80, 0x80, 0xF0,  0xE0, 0x90, 0x90, 0x90, 0xE0,
   0xF0, 0x80, 0xF0, 0x80, 0xF0,  0xF0, 0x80, 0xF0, 0x80, 0x80]

/-- The decided glyphs 1 to F (spec/10_state.md R41, decision D6). -/
def decidedGlyphs1toF : Vector Byte 75 :=
  ⟨(fontBytes1to3 ++ fontBytes4to7 ++ fontBytes8toB ++ fontBytesCtoF).toArray, by decide⟩

/-- Every parameter at its decided value (spec/00_scope.md R7; log 5): 64 rows by 128 columns, widths of 16 bits, the font
of R41, no timer tick, fatal invalid opcodes. DESIGN CHOICE of the spec (decisions D1, D2, D3, D6, D8, D9, D24). -/
def decidedConfig : Config where
  display := .rows64cols128
  pcWidth := ⟨16, by decide⟩
  iWidth := ⟨16, by decide⟩
  glyphs1toF := decidedGlyphs1toF
  timerTick := .off
  invalidOpcodePolicy := .fatal

end Machine

end Sys2Proof
end

