-- ==== Sys2Proof/Machine/State.lean ====
section
/-! DEFINITION. The state of the machine (spec/10_state.md, the tuple of R53 with `LOADPTR` beside it), the outside world as
plain data, the reasons a step can stop, and the state after reset (R55). The fields carry the spec's own names. -/

namespace Sys2Proof.Machine

/-- The five kinds of fault (spec/60_exceptions.md R220). -/
inductive FaultKind where
  | pcOutOfBounds
  | invalidOpcode
  | stackOverflow
  | stackUnderflow
  | memIndexOutOfBounds
  deriving DecidableEq, Repr

/-- The fault record `FR` (spec/10_state.md R45; its contents per kind, spec/60_exceptions.md R220). -/
structure FaultRecord where
  kind : FaultKind
  /-- address of the instruction; for a fetch fault the out-of-range `pc` -/
  addr : Nat
  /-- the opcode; absent for a fetch fault -/
  op : Option Word
  /-- the value of `I`, for a memory-index fault -/
  index : Option Nat
  deriving DecidableEq, Repr

/-- The run state `RS` (spec/10_state.md R44). -/
inductive RunState where
  | running
  | waitKey (x : RegIdx)
  | halted
  | faulted
  | stopped
  deriving DecidableEq, Repr

/-- An output event (spec/10_state.md R46). -/
inductive Event where
  | clear
  | draw (row col : Nat) (bit : Bool)
  | shutdown
  deriving DecidableEq, Repr

/-- The outside world as plain data; not state of the hardware (spec/00_scope.md R13.2) but what the step draws from. A
list that has run out is continued by a free value of Config (logs 1 to 4). -/
structure Environment where
  /-- whose turn it is, next first; with no entry left it is the CPU's, or in a key wait a free choice (logs 2, 3) -/
  turns : List Turn
  /-- the masks the keypad answers, next first (spec/10_state.md R47) -/
  masks : List Word
  /-- the bytes the random source answers, next first (spec/10_state.md R48) -/
  randoms : List Byte
  /-- how many free values have been drawn -/
  draws : Nat
  deriving DecidableEq, Repr

/-- The complete state (spec/10_state.md R53). The registers whose widths are parameters (`pc`, the stack entries, `I`) hold
their values as numbers: no rule wraps `pc`, and the one rule that wraps `I` does so by `I_WIDTH` (log 11). `MEM` lists, by rising address, the bytes that differ from what an unlisted
address reads as; `FB` lists the pixels that are 1, as (row, column), in row-major order (logs 25, 26). -/
structure State where
  /-- general registers V0 to VF (R20) -/
  V : Vector Byte 16
  /-- program counter, `PC_WIDTH` bits (R24) -/
  pc : Nat
  /-- index register, `I_WIDTH` bits (R28) -/
  I : Nat
  /-- stack pointer, 0 to 16 (R29) -/
  SP : Fin 17
  /-- call stack, entries of `STACK_ENTRY_WIDTH` bits (R30) -/
  STACK : Vector Nat 16
  /-- delay timer (R31) -/
  DT : Byte
  /-- sound timer (R31) -/
  ST : Byte
  /-- memory (R35) -/
  MEM : List Host.Cell
  /-- framebuffer (R42) -/
  FB : List (Nat × Nat)
  /-- run state (R44) -/
  RS : RunState
  /-- fault record (R45) -/
  FR : Option FaultRecord
  /-- event stream, oldest first (R46) -/
  EV : List Event
  /-- diagnostic log of (address, opcode), oldest first (R52) -/
  LOG : List (Nat × Word)
  /-- loader offset (R51) -/
  LOADPTR : Nat
  /-- parameters, fixed for a run (spec/00_scope.md R7) -/
  cfg : Config
  /-- the outside world -/
  env : Environment
  deriving DecidableEq, Repr

/-- Why `step` stops the host's run: the run is over and no transition exists (spec/10_state.md R44, "In a terminal state
the CPU has no step"). Raised by `step` alone, never by an instruction; safe (log 24). The machine's own faults are no
constructors of this type: their entry is a next state (spec/60_exceptions.md R230). -/
inductive Fault where
  /-- raised by `step` in HALTED; safe -/
  | halted
  /-- raised by `step` in FAULTED; safe -/
  | faulted
  /-- raised by `step` in STOPPED; safe -/
  | stopped
  deriving DecidableEq, Repr

/-- Why an instruction has no meaning in this model. -/
inductive Refusal where
  /-- raised by an arm of `exec` whose instruction has no meaning yet; safe. No arm raises it now. -/
  | notModelled (mnemonic : String)
  deriving DecidableEq, Repr

/-- What a step or a meaning answers. -/
abbrev Result := Host.Outcome State Fault Refusal

/-- No scripted outside world: the CPU's turn always, every draw free. DESIGN CHOICE (log 4). -/
def Environment.quiet : Environment where
  turns := []
  masks := []
  randoms := []
  draws := 0

/-- The state after reset under a configuration (spec/10_state.md R55). Memory lists nothing: it reads as FONT and zeros. -/
def State.resetWith (cfg : Config) : State where
  V := Vector.replicate 16 0x00#8
  pc := progBase
  I := 0x0000
  SP := 0
  STACK := Vector.replicate 16 0x0000
  DT := 0x00#8
  ST := 0x00#8
  MEM := []
  FB := []
  RS := .running
  FR := none
  EV := []
  LOG := []
  LOADPTR := progBase
  cfg := cfg
  env := .quiet

/-- The state after reset, every parameter at its decided value (spec/10_state.md R55, spec/70_reset_and_hazards.md R260,
R261). -/
def State.reset : State := .resetWith decidedConfig

end Sys2Proof.Machine
end

