-- ==== Sys2Proof/Machine/Operands.lean ====
section
/-! DEFINITION. Operand forms (spec/30_encoding.md R95): a general register by its 4-bit index, an immediate byte used as it
stands, a 12-bit address zero-extended, and the implicit operands V0 and `I`. -/

namespace Sys2Proof.Machine

/-- `V[x]` (spec/10_state.md R20). -/
def State.reg (s : State) (x : RegIdx) : Byte := s.V[x.toNat]'x.isLt

/-- `V[x] <- b`; a byte is a value modulo 256 already (spec/10_state.md R21). -/
def State.setReg (s : State) (x : RegIdx) (b : Byte) : State := { s with V := s.V.set x.toNat b x.isLt }

/-- `pc <- target` (spec/10_state.md R26). -/
def State.setPc (s : State) (target : Nat) : State := { s with pc := target }

/-- `I <- v` (spec/10_state.md R28). -/
def State.setI (s : State) (v : Nat) : State := { s with I := v }

/-- `DT <- b` (spec/10_state.md R31). -/
def State.setDT (s : State) (b : Byte) : State := { s with DT := b }

/-- `ST <- b` (spec/10_state.md R31). -/
def State.setST (s : State) (b : Byte) : State := { s with ST := b }

/-- `RS <- rs` (spec/10_state.md R44). -/
def State.setRS (s : State) (rs : RunState) : State := { s with RS := rs }

/-- An immediate address `nnn`, zero-extended (spec/30_encoding.md R95). -/
def addrOperand (nnn : Addr12) : Nat := nnn.toNat

/-- A register byte in an address computation, zero-extended (spec/00_scope.md R8). -/
def byteOperand (b : Byte) : Nat := b.toNat

/-- `nnn + V0`, which never wraps (spec/40_flow.md R128). -/
def State.indexedTarget (s : State) (nnn : Addr12) : Nat := addrOperand nnn + byteOperand (s.reg 0)

/-- `(I + V[x]) mod 2^I_WIDTH`; the modulus is 65536 at the decided width (spec/42_index_memory.md R162, spec/00_scope.md
R7). -/
def State.indexPlus (s : State) (x : RegIdx) : Nat := (s.I + byteOperand (s.reg x)) % 2 ^ s.cfg.iWidth.val

/-- `5 * V[x]`, the font address, with no masking of `V[x]` (spec/42_index_memory.md R163). -/
def State.glyphAddr (s : State) (x : RegIdx) : Nat := 5 * byteOperand (s.reg x)

/-- `V[0]` to `V[x]`, in order (spec/42_index_memory.md R165). -/
def State.regsUpTo (s : State) (x : RegIdx) : List Byte := s.V.toList.take (x.toNat + 1)

/-- The decimal digits of a byte: hundreds, tens, ones (spec/42_index_memory.md R164). -/
def decimalDigits (v : Byte) : List Byte :=
  [BitVec.ofNat 8 (v.toNat / 100), BitVec.ofNat 8 (v.toNat / 10 % 10), BitVec.ofNat 8 (v.toNat % 10)]

/-- The address of the instruction being executed: `pc` holds `a + 2` in the execute phase (spec/10_state.md R26). -/
def State.currentAddr (s : State) : Nat := s.pc - 2

end Sys2Proof.Machine
end

