-- ==== Sys2Proof/Machine/Flags.lean ====
section
/-! DEFINITION. The flag computations. The hardware has one flag, VF, and no other (spec/10_state.md R22); each of these is
the value one flag-writing instruction gives it, exactly 0 or 1. -/

namespace Sys2Proof.Machine

/-- A truth value as the byte 0 or 1 (spec/10_state.md R22). -/
def flagByte (b : Bool) : Byte := if b then 1#8 else 0#8

/-- Carry out of bit 7: the exact sum is 256 or more (spec/41_load_alu.md R147). -/
def carryOut (p q : Byte) : Bool := decide (256 ≤ p.toNat + q.toNat)

/-- No borrow in `p - q`: `p >= q` (spec/41_load_alu.md R148, R150). -/
def notBorrow (p q : Byte) : Bool := decide (q.toNat ≤ p.toNat)

/-- The bit a right shift moves out: `p mod 2` (spec/41_load_alu.md R149). -/
def shiftedOutRight (p : Byte) : Bool := decide (p.toNat % 2 = 1)

/-- The bit a left shift moves out: `p div 128` (spec/41_load_alu.md R151). -/
def shiftedOutLeft (p : Byte) : Bool := decide (p.toNat / 128 = 1)

/-- `V[15] <- flag`, written last (spec/41_load_alu.md R140, spec/43_display.md R182). -/
def State.setFlag (s : State) (flag : Bool) : State := s.setReg flagReg (flagByte flag)

end Sys2Proof.Machine
end

