-- ==== Sys2Proof/Machine/Ops.lean ====
section
/-! DEFINITION. The named operations that instructions share: memory, the event stream, the call stack, skips, the range
check, and taking a fault. -/

namespace Sys2Proof.Machine

/-! ### Memory (spec/10_state.md R35, spec/20_memory.md) -/

/-- What an address that is not listed reads as: the reset contents, FONT in [0x000, 0x050) and zero above (spec/10_state.md
R40, R55). -/
def Memory.background (font : Font) (a : Nat) : Byte := if h : a < 80 then font[a] else 0#8

/-- The byte at address `a`. -/
def Memory.read (font : Font) (m : List Host.Cell) (a : Nat) : Byte :=
  match m with
  | [] => Memory.background font a
  | c :: rest => if c.1 = a then c.2 else Memory.read font rest a

/-- Take the entry of address `a` out of a list in rising order. -/
def Memory.erase (m : List Host.Cell) (a : Nat) : List Host.Cell := m.filter fun c => c.1 != a

/-- Put an entry into a list in rising order that has none for its address. -/
def Memory.insert (m : List Host.Cell) (a : Nat) (b : Byte) : List Host.Cell :=
  match m with
  | [] => [(a, b)]
  | c :: rest => if a < c.1 then (a, b) :: c :: rest else c :: Memory.insert rest a b

/-- Set the byte at address `a`; the value an unlisted address reads as is not listed. -/
def Memory.write (font : Font) (m : List Host.Cell) (a : Nat) (b : Byte) : List Host.Cell :=
  if b = Memory.background font a then Memory.erase m a else Memory.insert (Memory.erase m a) a b

/-- The canonical form: addresses strictly rising, each inside memory, and no entry equal to what an unlisted address reads
as. -/
abbrev Memory.wf (font : Font) (m : List Host.Cell) : Prop :=
  m.Pairwise (fun c d => c.1 < d.1) ∧ ∀ c ∈ m, c.1 < memSize ∧ c.2 ≠ Memory.background font c.1

/-- `MemRead(a, 1)` (spec/00_scope.md R11). -/
def State.readByte (s : State) (a : Nat) : Byte := Memory.read s.cfg.font s.MEM a

/-- `MemWrite(a, 1, b)` (spec/00_scope.md R11). -/
def State.writeByte (s : State) (a : Nat) (b : Byte) : State :=
  { s with MEM := Memory.write s.cfg.font s.MEM a b }

/-- Bytes written to `a`, `a + 1`, ... in ascending order (spec/20_memory.md R61, R66). -/
def State.writeBytes (s : State) (a : Nat) : List Byte → State
  | [] => s
  | b :: bs => (s.writeByte a b).writeBytes (a + 1) bs

/-- The bytes at `a` to `a + n - 1`, in ascending order (spec/20_memory.md R61, R66). -/
def State.readBytes (s : State) (a n : Nat) : List Byte := (List.range n).map fun j => s.readByte (a + j)

/-- `MemRead(pc, 2)`, big-endian (spec/20_memory.md R60). -/
def State.fetchWord (s : State) : Word := combineBytes (s.readByte s.pc) (s.readByte (s.pc + 1))

/-- An access of `len` bytes at `I` passes the top of memory: `I + len > 4096` on unbounded integers; an access of zero bytes
tests nothing (spec/20_memory.md R69, R70). -/
def State.pastTop (s : State) (len : Nat) : Bool := decide (0 < len ∧ memSize < s.I + len)

/-- Registers `V[0]` to `V[x]` loaded from `I`, `I + 1`, ..., the others kept (spec/42_index_memory.md R166). -/
def State.loadRegsUpTo (s : State) (x : RegIdx) : State :=
  { s with V := Vector.ofFn fun j : Fin 16 => if j.val ≤ x.toNat then s.readByte (s.I + j.val) else s.V[j] }

/-! ### Events, skips, the call stack -/

/-- `emit e` (spec/00_scope.md R11). -/
def State.emit (s : State) (e : Event) : State := { s with EV := s.EV ++ [e] }

/-- `if c then pc <- pc + 2` (spec/40_flow.md R120). -/
def State.skipIf (s : State) (c : Bool) : State := if c then s.setPc (s.pc + 2) else s

/-- `STACK[SP] <- w ; SP <- SP + 1`, or nothing when `SP = 16` (spec/40_flow.md R123). -/
def State.push (s : State) (w : Nat) : Option State :=
  if h : s.SP.val < stackCap then
    some { s with STACK := s.STACK.set s.SP.val w h, SP := ⟨s.SP.val + 1, Nat.succ_lt_succ h⟩ }
  else none

/-- `SP <- SP - 1` and the entry `STACK[SP]` just popped, which keeps its value in the array; nothing when `SP = 0`
(spec/40_flow.md R121). -/
def State.pop (s : State) : Option (Nat × State) :=
  if h : 0 < s.SP.val then
    some (s.STACK[s.SP.val - 1]'(by omega), { s with SP := ⟨s.SP.val - 1, by omega⟩ })
  else none

/-! ### Taking a fault (spec/60_exceptions.md R230); there is no return from one (R231) -/

/-- The code of a fault (spec/60_exceptions.md R220; names are normative, numbers the spec's own, log 16). -/
def FaultKind.code : FaultKind → Nat
  | .pcOutOfBounds => 1
  | .invalidOpcode => 2
  | .stackOverflow => 3
  | .stackUnderflow => 4
  | .memIndexOutOfBounds => 5

/-- Fault entry: `FR` is set, `RS <- FAULTED`, no event, nothing else written (spec/60_exceptions.md R230). -/
def State.enterFault (s : State) (r : FaultRecord) : State := { s with FR := some r, RS := .faulted }

/-- `raise` in the execute phase of `i`: the record names the address the instruction was fetched from and its opcode
(spec/60_exceptions.md R220; DEDUCED: both are recovered from the execute-phase `pc` and from `i`, log 15). -/
def State.raise (s : State) (kind : FaultKind) (i : Instr) (index : Option Nat) : State :=
  s.enterFault ⟨kind, s.currentAddr, some (encode i), index⟩

/-- `raise MemIndexOutOfBounds`, which records `I` (spec/60_exceptions.md R223). -/
def State.raiseMemIndex (s : State) (i : Instr) : State := s.raise .memIndexOutOfBounds i (some s.I)

/-- `raise PcOutOfBounds`: the record holds the bad `pc` and no opcode, and `pc` is not advanced (spec/60_exceptions.md
R222). -/
def State.raisePcOutOfBounds (s : State) : State := s.enterFault ⟨.pcOutOfBounds, s.pc, none, none⟩

/-- An unrecognized word `op` fetched from `a`, under the policy of the run (spec/60_exceptions.md R226, R227). -/
def State.invalidOpcode (s : State) (a : Nat) (op : Word) : State :=
  match s.cfg.invalidOpcodePolicy with
  | .fatal => s.enterFault ⟨.invalidOpcode, a, some op, none⟩
  | .nop => { s with LOG := s.LOG ++ [(a, op)] }

end Sys2Proof.Machine
end

