-- ==== Sys2Proof/Machine/Framebuffer.lean ====
section
/-! DEFINITION. The framebuffer and the sprite blitter (spec/43_display.md, spec/10_state.md R42, R43). -/

namespace Sys2Proof.Machine

/-- Row-major order of pixels: by row, then by column. -/
abbrev Fb.before (p q : Nat × Nat) : Prop := p.1 < q.1 ∨ (p.1 = q.1 ∧ p.2 < q.2)

/-- `FB[r][c]`: the pixel is 1 exactly when it is listed. -/
def Fb.get (fb : List (Nat × Nat)) (r c : Nat) : Bool := fb.contains (r, c)

/-- List a pixel that is not listed, in row-major order. -/
def Fb.insert (fb : List (Nat × Nat)) (p : Nat × Nat) : List (Nat × Nat) :=
  match fb with
  | [] => [p]
  | q :: rest => if Fb.before p q then p :: q :: rest else q :: Fb.insert rest p

/-- `FB[r][c] <- bit`. -/
def Fb.set (fb : List (Nat × Nat)) (r c : Nat) (bit : Bool) : List (Nat × Nat) :=
  if bit then Fb.insert (fb.filter fun q => q != (r, c)) (r, c) else fb.filter fun q => q != (r, c)

/-- The canonical form: row-major order without repeats, every pixel inside the framebuffer. -/
abbrev Fb.wf (d : Display) (fb : List (Nat × Nat)) : Prop :=
  fb.Pairwise Fb.before ∧ ∀ p ∈ fb, p.1 < d.height ∧ p.2 < d.width

/-- The pixel `FB[r][c]` of the state. -/
def State.pixel (s : State) (r c : Nat) : Bool := Fb.get s.FB r c

/-- What one event does to a framebuffer (spec/10_state.md R43). -/
def Fb.apply (fb : List (Nat × Nat)) : Event → List (Nat × Nat)
  | .clear => []
  | .draw r c bit => Fb.set fb r c bit
  | .shutdown => fb

/-- The all-zero framebuffer with a list of events applied in order (spec/10_state.md R43). -/
def Fb.replay (ev : List Event) : List (Nat × Nat) := ev.foldl Fb.apply []

/-- Every pixel to 0 (spec/43_display.md R181). -/
def State.clearFb (s : State) : State := { s with FB := [] }

/-- Bit `7 - p` of a sprite byte: the most significant bit is drawn first (spec/43_display.md R182). -/
def spriteBit (b : Byte) (p : Nat) : Bool := b.getLsbD (7 - p)

/-- The pixels of one sprite row whose sprite bit is 1, leftmost bit first; the column wraps (spec/43_display.md R180,
R182). -/
def spriteRowPixels (d : Display) (x0 row : Nat) (b : Byte) : List (Nat × Nat) :=
  ((List.range 8).filter fun p => spriteBit b p).map fun p => (row, (x0 + p) % d.width)

/-- The pixels a sprite draws, in drawing order: rows top to bottom from offset `r`, the row wraps (spec/43_display.md R180,
R182). -/
def spritePixels (d : Display) (x0 y0 r : Nat) : List Byte → List (Nat × Nat)
  | [] => []
  | b :: bs => spriteRowPixels d x0 ((y0 + r) % d.height) b ++ spritePixels d x0 y0 (r + 1) bs

/-- What the blit loop of spec/43_display.md R182 carries: the framebuffer, the event stream and `coll`. -/
structure Blit where
  fb : List (Nat × Nat)
  ev : List Event
  coll : Bool
  deriving DecidableEq, Repr

/-- One sprite bit that is 1 on pixel `p`: XOR, collision, event (spec/43_display.md R182, R183). -/
def Blit.pixel (t : Blit) (p : Nat × Nat) : Blit :=
  let old := Fb.get t.fb p.1 p.2
  { fb := Fb.set t.fb p.1 p.2 (!old), ev := t.ev ++ [.draw p.1 p.2 (!old)], coll := t.coll || old }

/-- All the pixels of a sprite, in order. -/
def Blit.run (t : Blit) (ps : List (Nat × Nat)) : Blit := ps.foldl Blit.pixel t

/-- The pixels that `DRW Vx, Vy, n` draws in a state: the sprite at `I`, its left edge `V[x]`, its top edge `V[y]`
(spec/43_display.md R182). -/
def State.drwPixels (s : State) (x y : RegIdx) (n : Nibble) : List (Nat × Nat) :=
  spritePixels s.cfg.display (s.reg x).toNat (s.reg y).toNat 0 (s.readBytes s.I n.toNat)

/-- The sprite blit without its range check: pixels, events, and last the flag (spec/43_display.md R182). -/
def State.blit (s : State) (ps : List (Nat × Nat)) : State :=
  let t := Blit.run ⟨s.FB, s.EV, false⟩ ps
  { s with FB := t.fb, EV := t.ev }.setFlag t.coll

end Sys2Proof.Machine
end

