-- ==== Sys2Proof/Machine/DisplayOps.lean ====
section
/-! DEFINITION. The display instructions (spec/43_display.md). -/

namespace Sys2Proof.Machine

/-- `CLS` (spec/43_display.md R181). -/
def execCls (s : State) : Result := .next (s.clearFb.emit .clear)

/-- `DRW Vx, Vy, n` (spec/43_display.md R182). -/
def execDrw (x y : RegIdx) (n : Nibble) (s : State) : Result :=
  if s.pastTop n.toNat then .next (s.raiseMemIndex (.drw x y n))
  else .next (s.blit (s.drwPixels x y n))

end Sys2Proof.Machine
end

