-- ==== Sys2Proof/Machine/Flow.lean ====
section
/-! DEFINITION. Control transfer (spec/40_flow.md). In every meaning `pc` is `a + 2` on entry (R120). -/

namespace Sys2Proof.Machine

/-- `RET` (spec/40_flow.md R121). -/
def execRet (s : State) : Result :=
  match s.pop with
  | none => .next (s.raise .stackUnderflow .ret none)
  | some (target, s') => .next (s'.setPc target)

/-- `JP nnn` (spec/40_flow.md R122). -/
def execJp (nnn : Addr12) (s : State) : Result := .next (s.setPc (addrOperand nnn))

/-- `CALL nnn` (spec/40_flow.md R123). -/
def execCall (nnn : Addr12) (s : State) : Result :=
  match s.push s.pc with
  | none => .next (s.raise .stackOverflow (.call nnn) none)
  | some s' => .next (s'.setPc (addrOperand nnn))

/-- `SE Vx, kk` (spec/40_flow.md R124). -/
def execSeImm (x : RegIdx) (kk : Byte) (s : State) : Result := .next (s.skipIf (s.reg x == kk))

/-- `SNE Vx, kk` (spec/40_flow.md R125). -/
def execSneImm (x : RegIdx) (kk : Byte) (s : State) : Result := .next (s.skipIf (s.reg x != kk))

/-- `SE Vx, Vy` (spec/40_flow.md R126). -/
def execSeReg (x y : RegIdx) (s : State) : Result := .next (s.skipIf (s.reg x == s.reg y))

/-- `SNE Vx, Vy` (spec/40_flow.md R127). -/
def execSneReg (x y : RegIdx) (s : State) : Result := .next (s.skipIf (s.reg x != s.reg y))

/-- `JP V0, nnn` (spec/40_flow.md R128). -/
def execJpV0 (nnn : Addr12) (s : State) : Result := .next (s.setPc (s.indexedTarget nnn))

end Sys2Proof.Machine
end

