-- ==== Sys2Proof/Machine/IndexMemory.lean ====
section
/-! DEFINITION. The index register and the memory transfers (spec/42_index_memory.md). A memory instruction checks its whole
range before the first byte moves (R160, spec/20_memory.md R69) and leaves `I` unchanged. -/

namespace Sys2Proof.Machine

/-- `LD I, nnn` (spec/42_index_memory.md R161). -/
def execLdI (nnn : Addr12) (s : State) : Result := .next (s.setI (addrOperand nnn))

/-- `ADD I, Vx` (spec/42_index_memory.md R162). -/
def execAddIVx (x : RegIdx) (s : State) : Result := .next (s.setI (s.indexPlus x))

/-- `LD F, Vx` (spec/42_index_memory.md R163). -/
def execLdF (x : RegIdx) (s : State) : Result := .next (s.setI (s.glyphAddr x))

/-- `LD B, Vx` (spec/42_index_memory.md R164). -/
def execLdB (x : RegIdx) (s : State) : Result :=
  if s.pastTop 3 then .next (s.raiseMemIndex (.ldB x))
  else .next (s.writeBytes s.I (decimalDigits (s.reg x)))

/-- `LD [I], Vx` (spec/42_index_memory.md R165). -/
def execStoreRegs (x : RegIdx) (s : State) : Result :=
  if s.pastTop (x.toNat + 1) then .next (s.raiseMemIndex (.storeRegs x))
  else .next (s.writeBytes s.I (s.regsUpTo x))

/-- `LD Vx, [I]` (spec/42_index_memory.md R166). -/
def execLoadRegs (x : RegIdx) (s : State) : Result :=
  if s.pastTop (x.toNat + 1) then .next (s.raiseMemIndex (.loadRegs x))
  else .next (s.loadRegsUpTo x)

end Sys2Proof.Machine
end

