-- ==== Sys2Proof/Machine/Outside.lean ====
section
/-! DEFINITION. The values the core draws from outside and the steps of the outside agents (spec/10_state.md R47 to R50,
spec/60_exceptions.md R236 to R245, spec/70_reset_and_hazards.md R271). -/

namespace Sys2Proof.Machine

/-! ### Draws -/

/-- One free value more has been drawn. -/
def State.countDraw (s : State) : State := { s with env := { s.env with draws := s.env.draws + 1 } }

/-- What `keypad()` answers now (spec/10_state.md R47): the next supplied mask, or a free value (log 1). -/
def State.keypadMask (s : State) : Word :=
  match s.env.masks with
  | m :: _ => m
  | [] => Config.freeMask s.env.draws

/-- The state after one keypad query: the answer is used up, nothing else changes (log 1). -/
def State.afterKeypadQuery (s : State) : State :=
  match s.env.masks with
  | _ :: ms => { s with env := { s.env with masks := ms } }
  | [] => s.countDraw

/-- What `random_byte()` answers now (spec/10_state.md R48): the next supplied byte, or a free value (log 1). -/
def State.randomByte (s : State) : Byte :=
  match s.env.randoms with
  | b :: _ => b
  | [] => Config.freeByte s.env.draws

/-- The state after one random draw: the answer is used up, nothing else changes (log 1). -/
def State.afterRandomDraw (s : State) : State :=
  match s.env.randoms with
  | _ :: bs => { s with env := { s.env with randoms := bs } }
  | [] => s.countDraw

/-- `keybit(m, v)`: bit `v` of the mask when `v <= 15`, and 0 when there is no such key (spec/44_keypad_timers_system.md
R203, log 18). -/
def keybit (m : Word) (v : Byte) : Bool := decide (v.toNat ≤ 15) && m.getLsbD v.toNat

/-! ### Steps of the outside agents -/

/-- Key-press delivery (spec/44_keypad_timers_system.md R205): in `WAIT_KEY(x)` the key value is stored, zero-extended, and
the run goes on; in any other run state a key press is ignored (spec/10_state.md R49). -/
def State.deliverKey (s : State) (k : Nibble) : State :=
  match s.RS with
  | .waitKey x => (s.setReg x (k.setWidth 8)).setRS .running
  | .running => s
  | .halted => s
  | .faulted => s
  | .stopped => s

/-- Cancel (spec/60_exceptions.md R238): enabled in `RUNNING` and `WAIT_KEY`, it sets `RS <- STOPPED` and nothing else. -/
def State.cancel (s : State) : State :=
  match s.RS with
  | .running => s.setRS .stopped
  | .waitKey _ => s.setRS .stopped
  | .halted => s
  | .faulted => s
  | .stopped => s

/-- A timer one tick later: it stops at 0 (spec/60_exceptions.md R245; PRESUMED by the spec, G3, log 8). -/
def timerAfterTick (t : Byte) : Byte := if t = 0#8 then 0#8 else t - 1#8

/-- Both timers one tick later (spec/60_exceptions.md R245). -/
def State.countDown (s : State) : State := (s.setDT (timerAfterTick s.DT)).setST (timerAfterTick s.ST)

/-- The timer tick (spec/60_exceptions.md R245): it exists only with `TIMER_TICK = on`, in `RUNNING` and `WAIT_KEY`. -/
def State.tick (s : State) : State :=
  match s.cfg.timerTick, s.RS with
  | .on, .running => s.countDown
  | .on, .waitKey _ => s.countDown
  | .on, .halted => s
  | .on, .faulted => s
  | .on, .stopped => s
  | .off, _ => s

/-- The step of an outside agent (spec/70_reset_and_hazards.md R271); one that is not enabled changes nothing (log 28). -/
def State.outsideStep (s : State) : OutsideStep → State
  | .keyPress k => s.deliverKey k
  | .cancel => s.cancel
  | .tick => s.tick

/-- The first scripted turn has been taken. -/
def State.dropTurn (s : State) : State := { s with env := { s.env with turns := s.env.turns.tail } }

end Sys2Proof.Machine
end

