-- ==== Sys2Proof/Machine/LoadAlu.lean ====
section
/-! DEFINITION. Register loads, arithmetic, logic, shifts and the random draw (spec/41_load_alu.md). Operands are read first,
the result is written next and the flag last (R140). -/

namespace Sys2Proof.Machine

/-- The shape of R140: the result to `V[x]`, then the flag to `V[15]`. -/
def State.setResultAndFlag (s : State) (x : RegIdx) (result : Byte) (flag : Bool) : State :=
  (s.setReg x result).setFlag flag

/-- `LD Vx, kk` (spec/41_load_alu.md R141). -/
def execLdImm (x : RegIdx) (kk : Byte) (s : State) : Result := .next (s.setReg x kk)

/-- `ADD Vx, kk` (spec/41_load_alu.md R142). -/
def execAddImm (x : RegIdx) (kk : Byte) (s : State) : Result := .next (s.setReg x (s.reg x + kk))

/-- `LD Vx, Vy` (spec/41_load_alu.md R143). -/
def execLdReg (x y : RegIdx) (s : State) : Result := .next (s.setReg x (s.reg y))

/-- `OR Vx, Vy` (spec/41_load_alu.md R144). -/
def execOrReg (x y : RegIdx) (s : State) : Result := .next (s.setReg x (s.reg x ||| s.reg y))

/-- `AND Vx, Vy` (spec/41_load_alu.md R145). -/
def execAndReg (x y : RegIdx) (s : State) : Result := .next (s.setReg x (s.reg x &&& s.reg y))

/-- `XOR Vx, Vy` (spec/41_load_alu.md R146). -/
def execXorReg (x y : RegIdx) (s : State) : Result := .next (s.setReg x (s.reg x ^^^ s.reg y))

/-- `ADD Vx, Vy` (spec/41_load_alu.md R147). -/
def execAddReg (x y : RegIdx) (s : State) : Result :=
  .next (s.setResultAndFlag x (s.reg x + s.reg y) (carryOut (s.reg x) (s.reg y)))

/-- `SUB Vx, Vy` (spec/41_load_alu.md R148). -/
def execSubReg (x y : RegIdx) (s : State) : Result :=
  .next (s.setResultAndFlag x (s.reg x - s.reg y) (notBorrow (s.reg x) (s.reg y)))

/-- `SHR Vx`; `y` is ignored (spec/41_load_alu.md R149, spec/30_encoding.md R99). -/
def execShr (x _y : RegIdx) (s : State) : Result :=
  .next (s.setResultAndFlag x (s.reg x >>> 1) (shiftedOutRight (s.reg x)))

/-- `SUBN Vx, Vy` (spec/41_load_alu.md R150). -/
def execSubnReg (x y : RegIdx) (s : State) : Result :=
  .next (s.setResultAndFlag x (s.reg y - s.reg x) (notBorrow (s.reg y) (s.reg x)))

/-- `SHL Vx`; `y` is ignored (spec/41_load_alu.md R151, spec/30_encoding.md R99). -/
def execShl (x _y : RegIdx) (s : State) : Result :=
  .next (s.setResultAndFlag x (s.reg x <<< 1) (shiftedOutLeft (s.reg x)))

/-- `RND Vx, kk` (spec/41_load_alu.md R152). -/
def execRnd (x : RegIdx) (kk : Byte) (s : State) : Result :=
  .next (s.afterRandomDraw.setReg x (s.randomByte &&& kk))

end Sys2Proof.Machine
end

