-- ==== Sys2Proof/Machine/SystemOps.lean ====
section
/-! DEFINITION. Halt, keypad and timer instructions (spec/44_keypad_timers_system.md). -/

namespace Sys2Proof.Machine

/-- `HALT` (spec/44_keypad_timers_system.md R200). -/
def execHalt (s : State) : Result := .next ((s.emit .shutdown).setRS .halted)

/-- `SKP Vx` (spec/44_keypad_timers_system.md R201). -/
def execSkp (x : RegIdx) (s : State) : Result :=
  .next (s.afterKeypadQuery.skipIf (keybit s.keypadMask (s.reg x)))

/-- `SKNP Vx` (spec/44_keypad_timers_system.md R202). -/
def execSknp (x : RegIdx) (s : State) : Result :=
  .next (s.afterKeypadQuery.skipIf (!keybit s.keypadMask (s.reg x)))

/-- `LD Vx, K`: the CPU's own step only begins the wait; the key press of R205 writes the register
(spec/44_keypad_timers_system.md R204). -/
def execLdVxK (x : RegIdx) (s : State) : Result := .next (s.setRS (.waitKey x))

/-- `LD Vx, DT` (spec/44_keypad_timers_system.md R206; PRESUMED by the spec, G2, log 7). -/
def execLdVxDT (x : RegIdx) (s : State) : Result := .next (s.setReg x s.DT)

/-- `LD DT, Vx` (spec/44_keypad_timers_system.md R207; PRESUMED by the spec, G2, log 7). -/
def execLdDTVx (x : RegIdx) (s : State) : Result := .next (s.setDT (s.reg x))

/-- `LD ST, Vx` (spec/44_keypad_timers_system.md R208; PRESUMED by the spec, G2, log 7). -/
def execLdSTVx (x : RegIdx) (s : State) : Result := .next (s.setST (s.reg x))

end Sys2Proof.Machine
end

