-- ==== Sys2Proof/Machine/Cycle.lean ====
section
/-! DEFINITION. One step of the machine in each run state (spec/70_reset_and_hazards.md R270, R271). -/

namespace Sys2Proof.Machine

/-- One CPU step (spec/70_reset_and_hazards.md R270): the fetch check, the fetch, the advance of `pc` before executing, the
decode, the execute phase. -/
def cpuStep (s : State) : Result :=
  if memSize - 2 < s.pc then .next s.raisePcOutOfBounds
  else
    match decodeWord s.fetchWord with
    | .ok i => exec i (s.setPc (s.pc + 2))
    | .error _ => .next ((s.setPc (s.pc + 2)).invalidOpcode s.pc s.fetchWord)

/-- A step in RUNNING: the CPU's, unless the outside world has the turn (spec/60_exceptions.md R239, log 2). -/
def runningStep (s : State) : Result :=
  match s.env.turns with
  | [] => cpuStep s
  | .cpu :: _ => cpuStep s.dropTurn
  | .outside e :: _ => .next (s.dropTurn.outsideStep e)

/-- A step in WAIT_KEY: the CPU has none, so its turn changes nothing; an outside step happens when it has the turn; with no
turn scripted, what the outside world does is a free value (spec/44_keypad_timers_system.md R204, spec/60_exceptions.md R250,
log 3). -/
def waitStep (s : State) : Result :=
  match s.env.turns with
  | [] =>
    match Config.freeOutside s.env.draws with
    | none => .next s.countDraw
    | some e => .next (s.countDraw.outsideStep e)
  | .cpu :: _ => .next s.dropTurn
  | .outside e :: _ => .next (s.dropTurn.outsideStep e)

/-- Put an opcode at `pc`, high byte first, and make the CPU's fetch the next step: the run is RUNNING and no other turn is
scripted (log 23). -/
def State.placeWord (s : State) (op : Word) : State :=
  { s.writeBytes s.pc (opcodeBytes op) with RS := .running, env := { s.env with turns := [] } }

end Sys2Proof.Machine
end

