-- ==== Sys2Proof/Machine/Step.lean ====
section
/-! DEFINITION. The step of the machine. -/

namespace Sys2Proof.Machine

/-- One transition (spec/70_reset_and_hazards.md R270, R271). In a terminal run state there is none (spec/10_state.md R44). -/
def step (s : State) : Host.Outcome State Fault Refusal :=
  match s.RS with
  | .running => runningStep s
  | .waitKey _ => waitStep s
  | .halted => .fault .halted
  | .faulted => .fault .faulted
  | .stopped => .fault .stopped

/-- The state with one instruction of the opcode table placed where `step` fetches next (log 23). -/
def State.withFetchWord (s : State) (nbits w : Nat) : State := s.placeWord (tableWord nbits w)

end Sys2Proof.Machine
end

