-- ==== Sys2Proof/Machine/Loader.lean ====
section
/-! DEFINITION. The host's load operation, before the run (spec/20_memory.md R80 to R83). It is no step of the machine: no turn
of the outside world loads, so nothing is loaded once the run has begun (R83, log 23). -/

namespace Sys2Proof.Machine

/-- The load error reported to the host; it is none of the core's faults (spec/20_memory.md R82). -/
inductive LoadError where
  | imageTooLarge
  deriving DecidableEq, Repr

/-- `load_program(bytes)`: the bytes are appended at `LOADPTR`, which advances by their number; a load that would pass 4096
writes nothing (spec/20_memory.md R80, R82). -/
def State.loadProgram (s : State) (bytes : List Byte) : Except LoadError State :=
  if s.LOADPTR + bytes.length ≤ memSize then
    .ok { s.writeBytes s.LOADPTR bytes with LOADPTR := s.LOADPTR + bytes.length }
  else .error .imageTooLarge

end Sys2Proof.Machine
end

