-- ==== Sys2Proof/Safety.lean ====
section
/-! DEFINITION. The terms claims use: what a run's end is, the invariants every step keeps, and what it is for one part of the
state to be left alone. -/

namespace Sys2Proof.Machine

/-! ### The end of a run (spec/70_reset_and_hazards.md R272) -/

/-- The run states from which no transition leaves (spec/10_state.md R44). -/
def RunState.terminal : RunState → Bool
  | .running => false
  | .waitKey _ => false
  | .halted => true
  | .faulted => true
  | .stopped => true

/-- What the host and the collaborators can observe (spec/70_reset_and_hazards.md R272): the event stream, the sound timer,
and, once the run is over, how it ended. -/
structure HostView where
  events : List Event
  soundTimer : Byte
  ended : Option (RunState × Option FaultRecord)
  deriving DecidableEq, Repr

/-- The host's view of a state. -/
def State.hostView (s : State) : HostView where
  events := s.EV
  soundTimer := s.ST
  ended := if s.RS.terminal then some (s.RS, s.FR) else none

/-- A safe run never faults. -/
def State.safe (s : State) : Prop := s.RS ≠ .faulted

/-! ### Invariants -/

/-- Memory and framebuffer have their canonical forms (logs 25, 26). -/
abbrev State.canonical (s : State) : Prop := Memory.wf s.cfg.font s.MEM ∧ Fb.wf s.cfg.display s.FB

/-- What one event does to the pixel at (r, c) (spec/10_state.md R43). -/
def pixelAfterEvent (r c : Nat) (old : Bool) : Event → Bool
  | .clear => false
  | .draw row col bit => if row = r ∧ col = c then bit else old
  | .shutdown => old

/-- The pixel at (r, c) of the all-zero grid with the events applied in order (spec/10_state.md R43). -/
def pixelFromEvents (ev : List Event) (r c : Nat) : Bool := ev.foldl (pixelAfterEvent r c) false

/-- `FB` is the all-zero grid with the events of `EV` applied in order (spec/10_state.md R43). -/
def State.screenMatchesEvents (s : State) : Prop := ∀ r c, s.pixel r c = pixelFromEvents s.EV r c

/-- `FR` is filled exactly in `FAULTED` (spec/10_state.md R45, spec/60_exceptions.md R231). -/
def State.faultRecorded (s : State) : Prop := s.FR ≠ none ↔ s.RS = .faulted

/-- `Shutdown` is emitted by the halt alone and is the last event for ever (spec/44_keypad_timers_system.md R200,
spec/70_reset_and_hazards.md R272). -/
def State.shutdownOnlyLast (s : State) : Prop :=
  if s.RS = .halted then ∃ before, s.EV = before ++ [.shutdown] ∧ Event.shutdown ∉ before
  else Event.shutdown ∉ s.EV

/-- Every register whose width is a parameter holds a value of that width (spec/10_state.md R24, R28, R30; log 11). -/
abbrev State.widthsHold (s : State) : Prop :=
  s.pc < 2 ^ s.cfg.pcWidth.val ∧ s.I < 2 ^ s.cfg.iWidth.val ∧
  ∀ (j : Nat) (hj : j < 16), s.STACK[j] < 2 ^ s.cfg.stackEntryWidth.val

/-- The same state with another `PC_WIDTH`, and so another `STACK_ENTRY_WIDTH` (spec/00_scope.md R7). -/
def State.withPcWidth (s : State) (w : WidthFrom 13) : State := { s with cfg := { s.cfg with pcWidth := w } }

/-! ### Parts of the state that are left alone: `t` is the state after, `s` the state before -/

/-- Every general register outside `written` holds what it held. -/
abbrev RegsKept (written : RegIdx → Prop) (s t : State) : Prop := ∀ r, ¬ written r → t.reg r = s.reg r

/-- Every byte of memory reads as before. -/
abbrev MemoryKept (s t : State) : Prop := ∀ a, t.readByte a = s.readByte a

/-- Every byte of memory outside `base` to `base + len - 1` reads as before. -/
abbrev MemoryKeptOutside (base len : Nat) (s t : State) : Prop :=
  ∀ a, a < base ∨ base + len ≤ a → t.readByte a = s.readByte a

/-- Every pixel, and the event stream, is as before. -/
abbrev ScreenKept (s t : State) : Prop := (∀ r c, t.pixel r c = s.pixel r c) ∧ t.EV = s.EV

/-- The call stack and its pointer are as before. -/
abbrev StackKept (s t : State) : Prop := t.SP = s.SP ∧ t.STACK = s.STACK

/-- Both timers are as before. -/
abbrev TimersKept (s t : State) : Prop := t.DT = s.DT ∧ t.ST = s.ST

/-- The run state, the fault record and the diagnostic log are as before. -/
abbrev RunKept (s t : State) : Prop := t.RS = s.RS ∧ t.FR = s.FR ∧ t.LOG = s.LOG

/-- The loader offset and the configuration are as before. -/
abbrev HostKept (s t : State) : Prop := t.LOADPTR = s.LOADPTR ∧ t.cfg = s.cfg

/-- The instruction is not the six that write VF as a flag, and none whose `x` names register F as a destination
(spec/10_state.md R22, R23). -/
def leavesFlag : Instr → Prop
  | .ldImm x _ => x ≠ flagReg
  | .addImm x _ => x ≠ flagReg
  | .ldReg x _ => x ≠ flagReg
  | .orReg x _ => x ≠ flagReg
  | .andReg x _ => x ≠ flagReg
  | .xorReg x _ => x ≠ flagReg
  | .rnd x _ => x ≠ flagReg
  | .ldVxDT x => x ≠ flagReg
  | .loadRegs x => x ≠ flagReg
  | .addReg _ _ => False
  | .subReg _ _ => False
  | .shr _ _ => False
  | .subnReg _ _ => False
  | .shl _ _ => False
  | .drw _ _ _ => False
  | .halt => True
  | .cls => True
  | .ret => True
  | .jp _ => True
  | .call _ => True
  | .seImm _ _ => True
  | .sneImm _ _ => True
  | .seReg _ _ => True
  | .sneReg _ _ => True
  | .ldI _ => True
  | .jpV0 _ => True
  | .skp _ => True
  | .sknp _ => True
  | .ldVxK _ => True
  | .ldDTVx _ => True
  | .ldSTVx _ => True
  | .addIVx _ => True
  | .ldF _ => True
  | .ldB _ => True
  | .storeRegs _ => True

/-- The state makes the instruction fault in its execute phase (spec/60_exceptions.md R220, R223 to R225). -/
def faultsIn (i : Instr) (s : State) : Prop :=
  match i with
  | .ret => s.SP = 0
  | .call _ => s.SP = 16
  | .drw _ _ n => 0 < n.toNat ∧ 4096 < s.I + n.toNat
  | .ldB _ => 4093 < s.I
  | .storeRegs x => 4095 < s.I + x.toNat
  | .loadRegs x => 4095 < s.I + x.toNat
  | .halt => False
  | .cls => False
  | .jp _ => False
  | .seImm _ _ => False
  | .sneImm _ _ => False
  | .seReg _ _ => False
  | .ldImm _ _ => False
  | .addImm _ _ => False
  | .ldReg _ _ => False
  | .orReg _ _ => False
  | .andReg _ _ => False
  | .xorReg _ _ => False
  | .addReg _ _ => False
  | .subReg _ _ => False
  | .shr _ _ => False
  | .subnReg _ _ => False
  | .shl _ _ => False
  | .sneReg _ _ => False
  | .ldI _ => False
  | .jpV0 _ => False
  | .rnd _ _ => False
  | .skp _ => False
  | .sknp _ => False
  | .ldVxDT _ => False
  | .ldVxK _ => False
  | .ldDTVx _ => False
  | .ldSTVx _ => False
  | .addIVx _ => False
  | .ldF _ => False

/-! ### Whose turn a step is (log 2) -/

/-- The CPU has the turn in `s`; `s0` is `s` with that turn taken off the script. -/
abbrev CpuTurn (s s0 : State) : Prop :=
  (s.env.turns = [] ∧ s0 = s) ∨
  ∃ ts, s.env.turns = .cpu :: ts ∧ s0 = { s with env := { s.env with turns := ts } }

/-- The outside step `e` has the turn in `s`; `s0` is `s` with that turn taken off the script. -/
abbrev OutsideTurn (s : State) (e : OutsideStep) (s0 : State) : Prop :=
  ∃ ts, s.env.turns = .outside e :: ts ∧ s0 = { s with env := { s.env with turns := ts } }

/-- What happens at the next boundary of a key wait: the outside step that has the turn, the free choice when no turn is
scripted, or nothing on the CPU's turn, since the CPU has none there (spec/44_keypad_timers_system.md R204, logs 2, 3). -/
def waitTurn (s : State) : Option OutsideStep :=
  match s.env.turns with
  | [] => Config.freeOutside s.env.draws
  | .cpu :: _ => none
  | .outside e :: _ => some e

/-- The 16-bit value whose high byte is at `a` and whose low byte is at `a + 1` (spec/20_memory.md R60). -/
abbrev bigEndianAt (s : State) (a : Nat) : Word :=
  BitVec.ofNat 16 (256 * (s.readByte a).toNat + (s.readByte (a + 1)).toNat)

/-! ### Registers an instruction writes (spec/10_state.md R22, R23) -/

/-- The general registers the instruction may write: its `x`, the flag, or V0 to Vx. -/
def destRegs : Instr → RegIdx → Prop
  | .ldImm x _ => fun r => r = x
  | .addImm x _ => fun r => r = x
  | .ldReg x _ => fun r => r = x
  | .orReg x _ => fun r => r = x
  | .andReg x _ => fun r => r = x
  | .xorReg x _ => fun r => r = x
  | .addReg x _ => fun r => r = x ∨ r = flagReg
  | .subReg x _ => fun r => r = x ∨ r = flagReg
  | .shr x _ => fun r => r = x ∨ r = flagReg
  | .subnReg x _ => fun r => r = x ∨ r = flagReg
  | .shl x _ => fun r => r = x ∨ r = flagReg
  | .rnd x _ => fun r => r = x
  | .drw _ _ _ => fun r => r = flagReg
  | .ldVxDT x => fun r => r = x
  | .loadRegs x => fun r => r.toNat ≤ x.toNat
  | .halt => fun _ => False
  | .cls => fun _ => False
  | .ret => fun _ => False
  | .jp _ => fun _ => False
  | .call _ => fun _ => False
  | .seImm _ _ => fun _ => False
  | .sneImm _ _ => fun _ => False
  | .seReg _ _ => fun _ => False
  | .sneReg _ _ => fun _ => False
  | .ldI _ => fun _ => False
  | .jpV0 _ => fun _ => False
  | .skp _ => fun _ => False
  | .sknp _ => fun _ => False
  | .ldVxK _ => fun _ => False
  | .ldDTVx _ => fun _ => False
  | .ldSTVx _ => fun _ => False
  | .addIVx _ => fun _ => False
  | .ldF _ => fun _ => False
  | .ldB _ => fun _ => False
  | .storeRegs _ => fun _ => False

/-- The instruction's result goes to general registers alone (spec/41_load_alu.md, and the two loads of a register in
spec/42_index_memory.md R166 and spec/44_keypad_timers_system.md R206). -/
def registerResult (i : Instr) : Prop :=
  (∃ x kk, i = .ldImm x kk ∨ i = .addImm x kk ∨ i = .rnd x kk) ∨
  (∃ x y, i = .ldReg x y ∨ i = .orReg x y ∨ i = .andReg x y ∨ i = .xorReg x y ∨ i = .addReg x y ∨ i = .subReg x y ∨
    i = .shr x y ∨ i = .subnReg x y ∨ i = .shl x y) ∨
  (∃ x, i = .ldVxDT x ∨ i = .loadRegs x)

/-- The six skips (spec/10_state.md R26). -/
def isSkip (i : Instr) : Prop :=
  (∃ x kk, i = .seImm x kk ∨ i = .sneImm x kk) ∨ (∃ x y, i = .seReg x y ∨ i = .sneReg x y) ∨
  (∃ x, i = .skp x ∨ i = .sknp x)

/-! ### What a sprite draws, said from the rule (spec/43_display.md R180, R182) -/

/-- Row `r`, bit `p` of the sprite that `DRW Vx, Vy, n` draws in `s` is 1: bit `7 - p` of the byte at `I + r`. -/
abbrev spriteBitAt (s : State) (r p : Nat) : Bool := (s.readByte (s.I + r)).getLsbD (7 - p)

/-- The framebuffer row that sprite row `r` lands on. -/
abbrev spriteRow (s : State) (y : RegIdx) (r : Nat) : Nat := ((s.reg y).toNat + r) % s.cfg.display.height

/-- The framebuffer column that sprite column `p` lands on. -/
abbrev spriteCol (s : State) (x : RegIdx) (p : Nat) : Nat := ((s.reg x).toNat + p) % s.cfg.display.width

/-- Some bit of the sprite that is 1 lands on the pixel (row, col). -/
def spriteCovers (s : State) (x y : RegIdx) (n : Nibble) (row col : Nat) : Prop :=
  ∃ r, r < n.toNat ∧ ∃ p, p < 8 ∧ spriteBitAt s r p = true ∧ row = spriteRow s y r ∧ col = spriteCol s x p

end Sys2Proof.Machine
end

