-- ==== Sys2Proof/Certificates/Slice0/Obligations.lean ====
section
/-! DEFINITION. What the provers are asked to prove of the model. -/

open Sys2Proof Sys2Proof.Machine

/-! ### Encoding (spec/30_encoding.md) -/

/-- Every instruction, with every operand at every value its field admits, is read back from its opcode and from its bytes
with whatever bytes follow (R90, R93). -/
def Obligations.DecodeInvertsEncode : Prop :=
  ∀ i : Instr, decodeWord (encode i) = .ok i ∧
    ∀ rest, decode (opcodeBytes (encode i) ++ rest) = .ok (i, rest)

/-- No word but its own opcode decodes to an instruction: each field of a word reaches the instruction. For SHR and SHL that is
the model's choice: R99 calls the sixteen words of one `x` the same instruction and ignores `y` (decision D23), and the model's
two constructors keep the ignored field so that the opcode can be written back (log 22, DESIGN CHOICE). -/
def Obligations.EncodeInvertsDecode : Prop :=
  ∀ (op : Word) (i : Instr), decodeWord op = .ok i → encode i = op

/-- The unrecognized words are exactly the six groups of R96, said by arithmetic on the word (conflict C1: the table decides;
the counts of R96 are not stated). -/
def Obligations.UnrecognizedWordsAreTheSixGroups : Prop :=
  ∀ op : Word, (∃ e, decodeWord op = .error e) ↔
    let h := op.toNat / 4096
    let n := op.toNat % 16
    let kk := op.toNat % 256
    (h = 0 ∧ op.toNat ≠ 0x0000 ∧ op.toNat ≠ 0x00E0 ∧ op.toNat ≠ 0x00EE) ∨
    (h = 5 ∧ n ≠ 0) ∨
    (h = 8 ∧ n ∈ [0x8, 0x9, 0xA, 0xB, 0xC, 0xD, 0xF]) ∨
    (h = 9 ∧ n ≠ 0) ∨
    (h = 0xE ∧ kk ∉ [0x9E, 0xA1]) ∨
    (h = 0xF ∧ kk ∉ [0x07, 0x0A, 0x15, 0x18, 0x1E, 0x29, 0x33, 0x55, 0x65])

/-- The 35 rows of R93 are pairwise disjoint, a word that selects a row decodes to that row's instruction, and a word that
decodes selects the row of its instruction. -/
def Obligations.OpcodeTableDecidesDecoding : Prop :=
  opcodeTable.length = 35 ∧
  opcodeTable.Pairwise (fun a b => ∀ op, ¬ (a.selects op ∧ b.selects op)) ∧
  (∀ op, ∀ row ∈ opcodeTable, row.selects op → ∃ i, decodeWord op = .ok i ∧ i.mnemonic = row.mnemonic) ∧
  (∀ op i, decodeWord op = .ok i → ∃ row ∈ opcodeTable, row.mnemonic = i.mnemonic ∧ row.selects op)

/-- A few words of spec/95_test_vectors.md and what they decode to. -/
def Obligations.WordsOfTheSpecDecode : Prop :=
  decodeWord 0x0000#16 = .ok .halt ∧ decodeWord 0x00EE#16 = .ok .ret ∧
  decodeWord 0x1234#16 = .ok (.jp 0x234#12) ∧ decodeWord 0x332A#16 = .ok (.seImm 3#4 0x2A#8) ∧
  decodeWord 0x8AB6#16 = .ok (.shr 0xA#4 0xB#4) ∧ decodeWord 0xA2F0#16 = .ok (.ldI 0x2F0#12) ∧
  decodeWord 0xD122 = .ok (.drw 1#4 2#4 2#4) ∧ decodeWord 0xE2A1#16 = .ok (.sknp 2#4) ∧
  decodeWord 0xF255#16 = .ok (.storeRegs 2#4) ∧
  decodeWord 0x5121#16 = .error .unrecognized5 ∧ decodeWord 0x9121#16 = .error .unrecognized9

/-- The `y` field of the two shifts is ignored: all sixteen words decode to the shift of `Vx`, have the same effect, read no
`Vy` and write none (R99; the reading is the spec's decision D23, log 22). -/
def Obligations.ShiftsIgnoreTheYField : Prop :=
  ∀ (x y : RegIdx),
    decodeWord (BitVec.ofNat 16 (0x8006 + 256 * x.toNat + 16 * y.toNat)) = .ok (.shr x y) ∧
    decodeWord (BitVec.ofNat 16 (0x800E + 256 * x.toNat + 16 * y.toNat)) = .ok (.shl x y) ∧
    ∀ i, i = .shr x y ∨ i = .shl x y →
      (∀ (y' : RegIdx) (s : State), exec (.shr x y) s = exec (.shr x y') s ∧ exec (.shl x y) s = exec (.shl x y') s) ∧
      (∀ (s : State) (b : Byte), y ≠ x → ∃ t u, exec i s = .next t ∧ exec i (s.setReg y b) = .next u ∧
        (y ≠ flagReg → t.reg y = s.reg y) ∧ u.reg x = t.reg x ∧ u.reg flagReg = t.reg flagReg)

/-! ### The step (spec/70_reset_and_hazards.md R270) -/

/-- In RUNNING, on the CPU's turn, the two bytes at `pc`, of either parity, are combined big-endian, and when they decode to
`i`, the step is `exec i` after `pc` has advanced by 2; nothing else is added around it (R270; spec/20_memory.md R60;
spec/10_state.md R27 for odd `pc`, log 12). -/
def Obligations.StepRunsTheDecodedInstruction : Prop :=
  ∀ (s s0 : State) (i : Instr), s.RS = .running → CpuTurn s s0 → s.pc ≤ 4094 →
    decodeWord (bigEndianAt s s.pc) = .ok i →
    step s = exec i { s0 with pc := s.pc + 2 }

/-- In RUNNING, on the CPU's turn, a `pc` above 4094 faults before any byte is read; `pc` is not advanced
(spec/60_exceptions.md R222; the entry is R230, decision D12, log 16). -/
def Obligations.FetchPastTheTopFaults : Prop :=
  ∀ s s0 : State, s.RS = .running → CpuTurn s s0 → 4094 < s.pc →
    step s = .next { s0 with FR := some ⟨.pcOutOfBounds, s.pc, none, none⟩, RS := .faulted }

/-- An unrecognized word is a fault under `Fatal` and is logged and skipped under `Nop` (spec/60_exceptions.md R226, R227;
the policy is the spec's decision D9, log 14). -/
def Obligations.UnrecognizedWordFollowsThePolicy : Prop :=
  ∀ (s s0 : State) (e : DecodeError), s.RS = .running → CpuTurn s s0 → s.pc ≤ 4094 →
    decodeWord (bigEndianAt s s.pc) = .error e →
    (s.cfg.invalidOpcodePolicy = .fatal →
      step s = .next { s0 with
        pc := s.pc + 2, RS := .faulted
        FR := some ⟨.invalidOpcode, s.pc, some (bigEndianAt s s.pc), none⟩ }) ∧
    (s.cfg.invalidOpcodePolicy = .nop →
      step s = .next { s0 with pc := s.pc + 2, LOG := s.LOG ++ [(s.pc, bigEndianAt s s.pc)] })

/-- A state has a transition exactly while its run state is RUNNING or WAIT_KEY: no instruction and no outside step ever
stops the model, and a terminal state has no step (spec/10_state.md R44, decisions D12, D17; log 24). -/
def Obligations.StepExistsExactlyBeforeTheEnd : Prop :=
  ∀ s : State, (∃ t, step s = .next t) ↔ (s.RS = .running ∨ ∃ x, s.RS = .waitKey x)

/-- The word made of the bytes that were just stored at `pc` is what the next CPU step runs: a store is seen by the very next
fetch (spec/20_memory.md R87, an inference of the spec from R60, R65, R84). -/
def Obligations.NextFetchSeesTheStore : Prop :=
  ∀ (s t : State) (x : RegIdx) (i : Instr), s.RS = .running → s.env.turns = [] → 1 ≤ x.toNat → s.I = s.pc →
    s.I + x.toNat ≤ 4095 → exec (.storeRegs x) s = .next t →
    decodeWord (BitVec.ofNat 16 (256 * (s.reg 0).toNat + (s.reg 1).toNat)) = .ok i →
    step t = exec i { t with pc := s.pc + 2 }

/-! ### Outside steps (spec/70_reset_and_hazards.md R271) -/

/-- A key press in WAIT_KEY(x) stores the key's number in `Vx` and resumes the run, and changes nothing else; in RUNNING it is
ignored (spec/44_keypad_timers_system.md R205, spec/10_state.md R49; decision D17, log 20). -/
def Obligations.KeyPressEndsTheWait : Prop :=
  ∀ (s s0 : State) (k : Nibble), OutsideTurn s (.keyPress k) s0 →
    (∀ x, s.RS = .waitKey x → ∃ t, step s = .next t ∧ (t.reg x).toNat = k.toNat ∧ RegsKept (· = x) s t ∧
      t = { s0 with V := t.V, RS := .running }) ∧
    (s.RS = .running → step s = .next s0)

/-- Cancel, in RUNNING or WAIT_KEY, stops the run and changes nothing else: no register, no fault record, no event
(spec/60_exceptions.md R238; decisions D17, D18, log 20). -/
def Obligations.CancelOnlyStopsTheRun : Prop :=
  ∀ (s s0 : State), OutsideTurn s .cancel s0 → (s.RS = .running ∨ ∃ x, s.RS = .waitKey x) →
    step s = .next { s0 with RS := .stopped }

/-- A tick, in RUNNING or WAIT_KEY, lowers each timer by 1 down to 0 with `TIMER_TICK = on`, and changes nothing else; with
`off` there is no tick (spec/60_exceptions.md R245; decision D8; the stop at 0 is general knowledge, G3; log 8). -/
def Obligations.TickLowersTheTimers : Prop :=
  ∀ (s s0 : State), OutsideTurn s .tick s0 → (s.RS = .running ∨ ∃ x, s.RS = .waitKey x) →
    (s.cfg.timerTick = .on → ∃ t, step s = .next t ∧ t.DT.toNat = s.DT.toNat - 1 ∧ t.ST.toNat = s.ST.toNat - 1 ∧
      t = { s0 with DT := t.DT, ST := t.ST }) ∧
    (s.cfg.timerTick = .off → step s = .next s0)

/-- A step from WAIT_KEY(x) runs only on a key press, whose key is then in `Vx`, and stops only on a cancel; on the CPU's turn, a
tick, or when the outside world does nothing, it goes on waiting, no register changed. All other state survives, and the timers
too but for a tick with TIMER_TICK on (spec/60_exceptions.md R250; that a key press and a cancel do this is the spec's decision
D17, log 20; whose turn it is, logs 2, 3). -/
def Obligations.WaitEndsOnlyByKeyOrCancel : Prop :=
  ∀ (s t : State) (x : RegIdx), s.RS = .waitKey x → step s = .next t →
    ((∃ k, waitTurn s = some (.keyPress k) ∧ t.RS = .running ∧ (t.reg x).toNat = k.toNat ∧ RegsKept (· = x) s t) ∨
      (waitTurn s = some .cancel ∧ t.RS = .stopped ∧ t.V = s.V) ∨
      ((waitTurn s = none ∨ waitTurn s = some .tick) ∧ t.RS = .waitKey x ∧ t.V = s.V)) ∧
    t.pc = s.pc ∧ t.I = s.I ∧ StackKept s t ∧ MemoryKept s t ∧ ScreenKept s t ∧ t.FR = s.FR ∧ t.LOG = s.LOG ∧
    HostKept s t ∧ (s.cfg.timerTick = .off ∨ waitTurn s ≠ some .tick → TimersKept s t)

/-! ### Invariants -/

/-- Every step keeps the canonical forms of memory and framebuffer: in particular no instruction writes a byte outside the
4096 or a pixel outside the framebuffer (spec/20_memory.md R69, spec/43_display.md R180; the forms are the model's own, logs
25, 26). -/
def Obligations.StepKeepsCanonicalForms : Prop :=
  ∀ s t : State, s.canonical → step s = .next t → t.canonical

/-- Every step keeps the framebuffer equal, pixel by pixel, to the all-zero grid with the events of `EV` applied in order
(spec/10_state.md R43, an inference of the spec). -/
def Obligations.StepKeepsScreenEqualToEvents : Prop :=
  ∀ s t : State, s.screenMatchesEvents → step s = .next t → t.screenMatchesEvents

/-- Every step keeps: the fault record is filled exactly in FAULTED (spec/10_state.md R45, spec/60_exceptions.md R231;
decision D12, log 16). -/
def Obligations.StepKeepsFaultRecordExact : Prop :=
  ∀ s t : State, s.faultRecorded → step s = .next t → t.faultRecorded

/-- Every step keeps: a Shutdown event is in the stream exactly in HALTED, once, and last (spec/44_keypad_timers_system.md
R200, spec/70_reset_and_hazards.md R272; decision D18, log 20). -/
def Obligations.StepKeepsShutdownLast : Prop :=
  ∀ s t : State, s.shutdownOnlyLast → step s = .next t → t.shutdownOnlyLast

/-- Every step keeps, for every legal PC_WIDTH (13 bits or more) and I_WIDTH (12 or more): `pc`, `I` and each stack entry hold
values of their widths. So no legal width ever cuts a value off, but for the wrap of ADD I (spec/00_scope.md R7,
spec/10_state.md R24, R28, R30; decisions D2, D3, D24, log 11). -/
def Obligations.StepKeepsRegisterWidths : Prop :=
  ∀ s t : State, s.widthsHold → step s = .next t → t.widthsHold

/-- The reset state, under every configuration, meets the five invariants. -/
def Obligations.ResetMeetsTheInvariants : Prop :=
  ∀ cfg : Config, (State.resetWith cfg).canonical ∧ (State.resetWith cfg).screenMatchesEvents ∧
    (State.resetWith cfg).faultRecorded ∧ (State.resetWith cfg).shutdownOnlyLast ∧ (State.resetWith cfg).widthsHold

/-! ### Rules of the whole machine -/

/-- Every step only appends to the event stream and to the diagnostic log, and changes neither the configuration nor the
loader offset (spec/10_state.md R46, R51, R52; spec/60_exceptions.md R227; spec/20_memory.md R83). -/
def Obligations.StepOnlyAppendsToTheStreams : Prop :=
  ∀ s t : State, step s = .next t →
    (∃ es, t.EV = s.EV ++ es) ∧ (∃ ls, t.LOG = s.LOG ++ ls) ∧ HostKept s t

/-- Any legal PC_WIDTH, and STACK_ENTRY_WIDTH with it, gives the same behaviour: a step under another width is the same step
(spec/00_scope.md R7; decisions D2, D24, log 11). -/
def Obligations.PcWidthChangesNoBehaviour : Prop :=
  ∀ (s t : State) (w : WidthFrom 13), step s = .next t → step (s.withPcWidth w) = .next (t.withPcWidth w)

/-- Only CLS emits Clear, only DRW emits Draw, inside the framebuffer, and only HALT emits Shutdown (spec/10_state.md R46;
decision D18, log 20). -/
def Obligations.OnlyTheirInstructionsEmit : Prop :=
  ∀ (i : Instr) (s t : State), exec i s = .next t → ∃ es, t.EV = s.EV ++ es ∧
    (Event.clear ∈ es → i = .cls) ∧ (Event.shutdown ∈ es → i = .halt) ∧
    (∀ r c b, Event.draw r c b ∈ es →
      (∃ x y n, i = .drw x y n) ∧ r < s.cfg.display.height ∧ c < s.cfg.display.width)

/-- An instruction that is not one of the six flag writers, and does not name register F as a destination, leaves VF alone,
and the six write exactly 0 or 1 whenever they do not fault (spec/10_state.md R22; decisions D14, D19, logs 10, 21). -/
def Obligations.OnlyTheFlagWritersWriteVF : Prop :=
  ∀ (i : Instr) (s t : State), exec i s = .next t →
    (leavesFlag i → t.reg flagReg = s.reg flagReg) ∧
    ((∃ x y, i = .addReg x y ∨ i = .subReg x y ∨ i = .shr x y ∨ i = .subnReg x y ∨ i = .shl x y) ∨
      ((∃ x y n, i = .drw x y n) ∧ ¬ faultsIn i s) → t.reg flagReg = 0#8 ∨ t.reg flagReg = 1#8)

/-- The fetch sets `pc` to `pc + 2` before the execute phase, and an instruction then changes `pc` in only these ways: not at
all; `pc + 2` once more, a taken skip; `nnn`; `nnn + V0`; the popped entry (spec/10_state.md R26). -/
def Obligations.ProgramCounterChangesOnlyTheseWays : Prop :=
  (∀ (s s0 : State) (i : Instr), s.RS = .running → CpuTurn s s0 → s.pc ≤ 4094 →
    decodeWord (bigEndianAt s s.pc) = .ok i → step s = exec i { s0 with pc := s.pc + 2 }) ∧
  ∀ (i : Instr) (s t : State), exec i s = .next t →
    t.pc = s.pc ∨
    (isSkip i ∧ t.pc = s.pc + 2) ∨
    (∃ nnn, (i = .jp nnn ∨ i = .call nnn) ∧ t.pc = nnn.toNat) ∨
    (∃ nnn, i = .jpV0 nnn ∧ t.pc = nnn.toNat + (s.reg 0).toNat) ∨
    (i = .ret ∧ ∃ h : 0 < s.SP.val, t.pc = s.STACK[s.SP.val - 1]'(by omega))

/-- An instruction that runs in RUNNING leaves FAULTED behind exactly in the cases of the closed list (spec/60_exceptions.md
R220, R223 to R225, R228; that FAULTED is what a fault leaves is decision D12, log 16). -/
def Obligations.InstructionsFaultExactlyInTheseCases : Prop :=
  ∀ (i : Instr) (s t : State), s.RS = .running → exec i s = .next t → (t.RS = .faulted ↔ faultsIn i s)

/-! ### Faults (spec/60_exceptions.md) -/

/-- MemIndexOutOfBounds, before any effect: LD B when `I > 4093`, the two register transfers when `I + x > 4095`, DRW when
`n > 0` and `I + n > 4096`; the record holds `I`; setting `I` never faults (R223; the entry is R230, decision D12, log 16). -/
def Obligations.MemoryIndexFaults : Prop :=
  (∀ (s : State) (i : Instr),
    ((∃ x, i = .ldB x ∧ 4093 < s.I) ∨
     (∃ x, (i = .storeRegs x ∨ i = .loadRegs x) ∧ 4095 < s.I + x.toNat) ∨
     (∃ x y n, i = .drw x y n ∧ 0 < n.toNat ∧ 4096 < s.I + n.toNat)) →
    exec i s = .next { s with
      FR := some ⟨.memIndexOutOfBounds, s.pc - 2, some (encode i), some s.I⟩, RS := .faulted }) ∧
  (∀ (s : State) (nnn : Addr12) (x : RegIdx) (i : Instr), i = .ldI nnn ∨ i = .addIVx x ∨ i = .ldF x →
    ∃ t, exec i s = .next t ∧ t.RS = s.RS ∧ t.FR = s.FR)

/-! ### Control flow (spec/40_flow.md) -/

/-- RET with a live entry pops it into `pc`; with none it is StackUnderflow: nothing is popped, `pc` is not set, and the record
names the instruction at `pc - 2` (R121; spec/60_exceptions.md R225; the entry is R230, decision D12, log 16). -/
def Obligations.ReturnPopsIntoPc : Prop :=
  ∀ s : State,
    (∀ h : 0 < s.SP.val, ∃ t, exec .ret s = .next t ∧ t.SP.val = s.SP.val - 1 ∧
      t.pc = s.STACK[s.SP.val - 1]'(by omega) ∧ t = { s with pc := t.pc, SP := t.SP }) ∧
    (s.SP.val = 0 → exec .ret s = .next { s with
      FR := some ⟨.stackUnderflow, s.pc - 2, some 0x00EE#16, none⟩, RS := .faulted })

/-- CALL with room pushes the address after the call and jumps; with none it is StackOverflow: nothing is pushed and `pc` is
not set to `nnn` (R123; spec/60_exceptions.md R224; the entry is R230, decision D12, log 16). -/
def Obligations.CallPushesTheReturnAddress : Prop :=
  ∀ (s : State) (nnn : Addr12),
    (∀ h : s.SP.val < 16, ∃ t, exec (.call nnn) s = .next t ∧ t.SP.val = s.SP.val + 1 ∧ t.pc = nnn.toNat ∧
      t.STACK[s.SP.val] = s.pc ∧ (∀ (j : Nat) (hj : j < 16), j ≠ s.SP.val → t.STACK[j] = s.STACK[j]) ∧
      t = { s with pc := t.pc, SP := t.SP, STACK := t.STACK }) ∧
    (s.SP.val = 16 → exec (.call nnn) s = .next { s with
      FR := some ⟨.stackOverflow, s.pc - 2, some (BitVec.ofNat 16 (0x2000 + nnn.toNat)), none⟩, RS := .faulted })

/-- A call, then anything that leaves the stack as the call left it, then a return: `pc` is the address after the call and the
stack pointer is what it was (R121, R123; S5 of spec/95_test_vectors.md). -/
def Obligations.ReturnUndoesCall : Prop :=
  ∀ (s t u w : State) (nnn : Addr12), s.SP.val < 16 → exec (.call nnn) s = .next t → u.SP = t.SP → u.STACK = t.STACK →
    exec .ret u = .next w → w.pc = s.pc ∧ w.SP = s.SP

/-- JP sets `pc` to `nnn`, of either parity and in range or not, and never faults (R122). -/
def Obligations.JumpSetsPc : Prop :=
  ∀ (s : State) (nnn : Addr12), ∃ t, exec (.jp nnn) s = .next t ∧ t.pc = nnn.toNat ∧ t = { s with pc := t.pc }

/-- JP V0 sets `pc` to the exact sum `nnn + V0`, which never wraps (R128; the width of `pc` is decision D2, log 11). -/
def Obligations.IndexedJumpNeverWraps : Prop :=
  ∀ (s : State) (nnn : Addr12), ∃ t, exec (.jpV0 nnn) s = .next t ∧
    t.pc = nnn.toNat + (s.reg 0).toNat ∧ t.pc ≤ 0x10FE ∧ t = { s with pc := t.pc }

/-- The four register skips: `pc <- pc + 2` when the condition holds, nothing otherwise; no register is written and nothing
faults (R124 to R127). -/
def Obligations.SkipsCompareAndAdvance : Prop :=
  ∀ (s : State) (x y : RegIdx) (kk : Byte),
    exec (.seImm x kk) s = .next { s with pc := if s.reg x = kk then s.pc + 2 else s.pc } ∧
    exec (.sneImm x kk) s = .next { s with pc := if s.reg x = kk then s.pc else s.pc + 2 } ∧
    exec (.seReg x y) s = .next { s with pc := if s.reg x = s.reg y then s.pc + 2 else s.pc } ∧
    exec (.sneReg x y) s = .next { s with pc := if s.reg x = s.reg y then s.pc else s.pc + 2 }

/-! ### Loads and arithmetic (spec/41_load_alu.md) -/

/-- LD Vx, kk; ADD Vx, kk, which wraps and sets no flag; LD Vx, Vy: each writes `Vx`, and no other register, VF neither, and
changes nothing else, so it takes no exception (R141, R142, R143). -/
def Obligations.LoadsAndAddImmediate : Prop :=
  ∀ (s : State) (x y : RegIdx) (kk : Byte),
    (∃ t, exec (.ldImm x kk) s = .next t ∧ t.reg x = kk ∧ RegsKept (· = x) s t ∧ t = { s with V := t.V }) ∧
    (∃ t, exec (.addImm x kk) s = .next t ∧ (t.reg x).toNat = ((s.reg x).toNat + kk.toNat) % 256 ∧
      RegsKept (· = x) s t ∧ t = { s with V := t.V }) ∧
    (∃ t, exec (.ldReg x y) s = .next t ∧ t.reg x = s.reg y ∧ RegsKept (· = x) s t ∧ t = { s with V := t.V })

/-- OR, AND, XOR, bit by bit; VF is left alone unless it is `Vx` (R144 to R146; decision D19, log 21). -/
def Obligations.LogicIsBitwise : Prop :=
  ∀ (s : State) (x y : RegIdx),
    (∃ t, exec (.orReg x y) s = .next t ∧ (x ≠ flagReg → t.reg flagReg = s.reg flagReg) ∧
      ∀ k, (t.reg x).getLsbD k = ((s.reg x).getLsbD k || (s.reg y).getLsbD k)) ∧
    (∃ t, exec (.andReg x y) s = .next t ∧ (x ≠ flagReg → t.reg flagReg = s.reg flagReg) ∧
      ∀ k, (t.reg x).getLsbD k = ((s.reg x).getLsbD k && (s.reg y).getLsbD k)) ∧
    (∃ t, exec (.xorReg x y) s = .next t ∧ (x ≠ flagReg → t.reg flagReg = s.reg flagReg) ∧
      ∀ k, (t.reg x).getLsbD k = ((s.reg x).getLsbD k ^^ (s.reg y).getLsbD k))

/-- ADD Vx, Vy: the sum modulo 256 and the carry; with `x = 15` the sum is lost under the carry (R147; that clause rests on
decision D14, log 10). -/
def Obligations.AddSetsCarry : Prop :=
  ∀ (s : State) (x y : RegIdx), ∃ t, exec (.addReg x y) s = .next t ∧
    (x ≠ flagReg → (t.reg x).toNat = ((s.reg x).toNat + (s.reg y).toNat) % 256) ∧
    (t.reg flagReg).toNat = if 256 ≤ (s.reg x).toNat + (s.reg y).toNat then 1 else 0

/-- SUB and SUBN: the difference modulo 256 and the flag, 1 when there is no borrow (R148, R150; with `x = 15` the flag alone
remains, decision D14, log 10). -/
def Obligations.SubtractionsSetNotBorrow : Prop :=
  ∀ (s : State) (x y : RegIdx),
    (∃ t, exec (.subReg x y) s = .next t ∧
      (x ≠ flagReg → ((t.reg x).toNat : Int) = ((s.reg x).toNat - (s.reg y).toNat : Int) % 256) ∧
      (t.reg flagReg).toNat = if (s.reg y).toNat ≤ (s.reg x).toNat then 1 else 0) ∧
    (∃ t, exec (.subnReg x y) s = .next t ∧
      (x ≠ flagReg → ((t.reg x).toNat : Int) = ((s.reg y).toNat - (s.reg x).toNat : Int) % 256) ∧
      (t.reg flagReg).toNat = if (s.reg x).toNat ≤ (s.reg y).toNat then 1 else 0)

/-- SHR and SHL: half or double of `Vx`, and the bit shifted out as 0 or 1 (R149, R151; `y` ignored by decision D23, order by
D14, logs 10, 22). -/
def Obligations.ShiftsSetTheBitShiftedOut : Prop :=
  ∀ (s : State) (x y : RegIdx),
    (∃ t, exec (.shr x y) s = .next t ∧ (x ≠ flagReg → (t.reg x).toNat = (s.reg x).toNat / 2) ∧
      (t.reg flagReg).toNat = (s.reg x).toNat % 2) ∧
    (∃ t, exec (.shl x y) s = .next t ∧ (x ≠ flagReg → (t.reg x).toNat = 2 * (s.reg x).toNat % 256) ∧
      (t.reg flagReg).toNat = (s.reg x).toNat / 128)

/-- RND: whatever byte is drawn, `Vx` is the byte AND `kk`, so no bit outside `kk` is set; the supplied draw is used up, once
(R152; the draw is a free value, decision D25, log 1). -/
def Obligations.RandomIsMasked : Prop :=
  ∀ (s : State) (x : RegIdx) (kk : Byte), ∃ t, exec (.rnd x kk) s = .next t ∧ t.reg x &&& ~~~kk = 0#8 ∧
    (∀ b bs, s.env.randoms = b :: bs → t.reg x = b &&& kk ∧ t.env.randoms = bs) ∧
    (s.env.randoms = [] → t.reg x = Config.freeByte s.env.draws &&& kk)

/-! ### Index register and memory (spec/42_index_memory.md) -/

/-- LD I loads `nnn`; ADD I adds modulo 2 to the power I_WIDTH, which is 65536 at the decided width, and sets no flag; LD F is
five times the whole byte (R161, R162, R163, spec/00_scope.md R7; decisions D3, D19, D21, logs 11, 19, 21). -/
def Obligations.IndexRegisterIsSet : Prop :=
  ∀ (s : State) (x : RegIdx) (nnn : Addr12),
    (∃ t, exec (.ldI nnn) s = .next t ∧ t.I = nnn.toNat) ∧
    (∃ t, exec (.addIVx x) s = .next t ∧ t.I = (s.I + (s.reg x).toNat) % 2 ^ s.cfg.iWidth.val ∧ t.V = s.V) ∧
    (∃ t, exec (.ldF x) s = .next t ∧ t.I = 5 * (s.reg x).toNat)

/-- LD B writes the three decimal digits at `I`, `I + 1`, `I + 2` and leaves `I` alone; past the top it is the fault and
writes no byte (R164; that `I` is kept is decision D19, log 21, and the fault's entry D12, log 16). -/
def Obligations.DecimalDigitsAreStored : Prop :=
  ∀ (s : State) (x : RegIdx),
    (s.I + 3 ≤ 4096 → ∃ t, exec (.ldB x) s = .next t ∧
      (t.readByte s.I).toNat = (s.reg x).toNat / 100 ∧
      (t.readByte (s.I + 1)).toNat = (s.reg x).toNat / 10 % 10 ∧
      (t.readByte (s.I + 2)).toNat = (s.reg x).toNat % 10 ∧
      MemoryKeptOutside s.I 3 s t ∧ t.I = s.I) ∧
    (4096 < s.I + 3 → ∃ t, exec (.ldB x) s = .next t ∧ t.RS = .faulted ∧
      t.FR = some ⟨.memIndexOutOfBounds, s.pc - 2, some (encode (.ldB x)), some s.I⟩ ∧ MemoryKept s t)

/-- LD [I], Vx stores V0 to Vx at `I` onwards, bytes outside are kept, and `I` is unchanged (R165; decision D19, log 21). -/
def Obligations.RegistersAreStored : Prop :=
  ∀ (s : State) (x : RegIdx), s.I + x.toNat ≤ 4095 →
    ∃ t, exec (.storeRegs x) s = .next t ∧ t.I = s.I ∧
      (∀ r : RegIdx, r.toNat ≤ x.toNat → t.readByte (s.I + r.toNat) = s.reg r) ∧
      MemoryKeptOutside s.I (x.toNat + 1) s t

/-- LD Vx, [I] loads V0 to Vx from `I` onwards, higher registers are kept, and `I` is unchanged (R166; decision D19, log
21). -/
def Obligations.RegistersAreLoaded : Prop :=
  ∀ (s : State) (x : RegIdx), s.I + x.toNat ≤ 4095 →
    ∃ t, exec (.loadRegs x) s = .next t ∧ t.I = s.I ∧
      (∀ r : RegIdx, r.toNat ≤ x.toNat → t.reg r = s.readByte (s.I + r.toNat)) ∧
      RegsKept (fun r => r.toNat ≤ x.toNat) s t

/-- A store, then anything that keeps memory and `I`, then a load with the same `x`, restores V0 to Vx (R165, R166; that the
store keeps `I` is decision D19, log 21). -/
def Obligations.LoadAfterStoreRestoresRegisters : Prop :=
  ∀ (s t u w : State) (x : RegIdx), s.I + x.toNat ≤ 4095 → exec (.storeRegs x) s = .next t →
    MemoryKept t u → u.I = t.I → exec (.loadRegs x) u = .next w →
    ∀ r : RegIdx, r.toNat ≤ x.toNat → w.reg r = s.reg r

/-! ### Display (spec/43_display.md) -/

/-- CLS zeroes every pixel, emits exactly one Clear and changes nothing else, VF neither (R181). -/
def Obligations.ClearZeroesTheScreen : Prop :=
  ∀ s : State, ∃ t, exec .cls s = .next t ∧ (∀ r c, t.pixel r c = false) ∧ t.EV = s.EV ++ [.clear] ∧
    t = { s with FB := t.FB, EV := t.EV }

/-- DRW inverts exactly the pixels that a sprite bit 1 lands on, rows and columns wrapping, and VF is 1 exactly when one of
them was 1 (R180, R182; the coordinates are read before VF is written, decision D14, log 10). -/
def Obligations.DrawInvertsTheCoveredPixels : Prop :=
  ∀ (s : State) (x y : RegIdx) (n : Nibble), n = 0#4 ∨ s.I + n.toNat ≤ 4096 →
    ∃ t, exec (.drw x y n) s = .next t ∧
      (∀ row col, spriteCovers s x y n row col → t.pixel row col = !s.pixel row col) ∧
      (∀ row col, ¬ spriteCovers s x y n row col → t.pixel row col = s.pixel row col) ∧
      (t.reg flagReg = 1#8 ↔ ∃ row col, spriteCovers s x y n row col ∧ s.pixel row col = true) ∧
      (t.reg flagReg = 0#8 ∨ t.reg flagReg = 1#8)

/-- DRW emits one Draw per sprite bit 1, rows top to bottom, bits left to right, each with the inverted bit (R183; decision
D15, log 17). -/
def Obligations.DrawEmitsInOrder : Prop :=
  ∀ (s : State) (x y : RegIdx) (n : Nibble), n = 0#4 ∨ s.I + n.toNat ≤ 4096 →
    ∃ t, exec (.drw x y n) s = .next t ∧ t.EV = s.EV ++
      (List.range n.toNat).flatMap fun r => (List.range 8).flatMap fun p =>
        if spriteBitAt s r p then
          [.draw (spriteRow s y r) (spriteCol s x p) (!s.pixel (spriteRow s y r) (spriteCol s x p))]
        else []

/-- Drawing the same sprite twice at the same place restores the framebuffer, and after the second draw VF is 1 exactly when
a covered pixel was 0 before the first (R184, an inference of the spec). The coordinates are not in VF: the first draw writes
VF (last, decision D14, log 10), so a coordinate there moves the sprite and the second draw is another one. -/
def Obligations.DrawingTwiceRestoresTheScreen : Prop :=
  ∀ (s t u : State) (x y : RegIdx) (n : Nibble), n = 0#4 ∨ s.I + n.toNat ≤ 4096 → x ≠ flagReg → y ≠ flagReg →
    exec (.drw x y n) s = .next t → exec (.drw x y n) t = .next u →
    (∀ row col, u.pixel row col = s.pixel row col) ∧ (s.canonical → u.FB = s.FB) ∧
    (u.reg flagReg = 1#8 ↔ ∃ row col, spriteCovers s x y n row col ∧ s.pixel row col = false)

/-! ### System, keypad, timers (spec/44_keypad_timers_system.md) -/

/-- HALT emits Shutdown and ends in HALTED with `pc` advanced; LD Vx, K begins the wait with `x` latched and `Vx` unchanged
(R200, R204; decisions D17, D18, log 20). -/
def Obligations.HaltAndKeyWaitSetTheRunState : Prop :=
  ∀ (s : State) (x : RegIdx),
    exec .halt s = .next { s with EV := s.EV ++ [.shutdown], RS := .halted } ∧
    exec (.ldVxK x) s = .next { s with RS := .waitKey x }

/-- SKP and SKNP on the mask that is sampled, supplied or free: the bit of key `Vx` decides, a value above 15 has no bit; the
two are opposite, and the supplied mask is used up, once (R201 to R203; decisions D16, D25, logs 1, 18). -/
def Obligations.KeypadSkipsTestOneBit : Prop :=
  ∀ (s : State) (x : RegIdx), ∃ t u, exec (.skp x) s = .next t ∧ exec (.sknp x) s = .next u ∧
    (∀ m ms, s.env.masks = m :: ms → t.env.masks = ms ∧ u.env.masks = ms ∧
      (t.pc = if (s.reg x).toNat ≤ 15 ∧ m.getLsbD (s.reg x).toNat = true then s.pc + 2 else s.pc) ∧
      (u.pc = if (s.reg x).toNat ≤ 15 ∧ m.getLsbD (s.reg x).toNat = true then s.pc else s.pc + 2)) ∧
    (s.env.masks = [] →
      (t.pc = if (s.reg x).toNat ≤ 15 ∧ (Config.freeMask s.env.draws).getLsbD (s.reg x).toNat = true then s.pc + 2
        else s.pc) ∧
      (u.pc = if (s.reg x).toNat ≤ 15 ∧ (Config.freeMask s.env.draws).getLsbD (s.reg x).toNat = true then s.pc
        else s.pc + 2))

/-- The timer copies: LD Vx, DT reads the delay timer, LD DT, Vx and LD ST, Vx write the timers (R206 to R208; which opcode
copies which way is general knowledge of the spec, G2, decision D7, log 7). -/
def Obligations.TimersAreCopied : Prop :=
  ∀ (s : State) (x : RegIdx),
    (∃ t, exec (.ldVxDT x) s = .next t ∧ t.reg x = s.DT ∧ t.DT = s.DT) ∧
    (∃ t, exec (.ldDTVx x) s = .next t ∧ t.DT = s.reg x ∧ t.ST = s.ST) ∧
    (∃ t, exec (.ldSTVx x) s = .next t ∧ t.ST = s.reg x ∧ t.DT = s.DT)

/-! ### Frames: what the instructions of one shape leave alone -/

/-- The instructions whose result goes to general registers (loads, arithmetic, logic, shifts, RND, LD Vx, DT and
LD Vx, [I]) write no register but their destinations (their `x`, VF for the five flag writers, V0 to Vx for the block load),
and leave alone `pc`, `I`, the stack, the timers, every byte of memory, the screen, the run state (but for a fault of the
block load), and all else; RND alone draws from the outside world. That no unlisted effect happens is the spec's decision D19
(log 21), what a faulting block load leaves D12 (log 16), and that LD Vx, DT reads the delay timer is PRESUMED (D7, log 7). -/
def Obligations.FrameOfRegisterInstructions : Prop :=
  ∀ (i : Instr) (s t : State), registerResult i → exec i s = .next t →
    RegsKept (destRegs i) s t ∧ t.pc = s.pc ∧ t.I = s.I ∧ StackKept s t ∧ TimersKept s t ∧ MemoryKept s t ∧
    ScreenKept s t ∧ (¬ faultsIn i s → RunKept s t) ∧ HostKept s t ∧ ((∀ x kk, i ≠ .rnd x kk) → t.env = s.env)

/-- The control transfers (RET, JP, CALL, JP V0 and the six skips) write no general register, and leave alone `I`, the timers,
every byte of memory, the screen, the run state (but for a stack fault), and all else; only CALL and RET touch the stack,
and RET keeps every entry; only the keypad skips draw from the outside world. What a stack fault leaves is the spec's decision
D12 (log 16). -/
def Obligations.FrameOfControlTransfers : Prop :=
  ∀ (i : Instr) (s t : State), (i = .ret ∨ (∃ nnn, i = .jp nnn ∨ i = .call nnn ∨ i = .jpV0 nnn) ∨ isSkip i) →
    exec i s = .next t →
    t.V = s.V ∧ t.I = s.I ∧ TimersKept s t ∧ MemoryKept s t ∧ ScreenKept s t ∧ (¬ faultsIn i s → RunKept s t) ∧
    HostKept s t ∧ ((∀ nnn, i ≠ .call nnn) → t.STACK = s.STACK) ∧
    (i ≠ .ret → (∀ nnn, i ≠ .call nnn) → t.SP = s.SP) ∧
    (∀ (j : Nat) (hj : j < 16), j ≠ s.SP.val → t.STACK[j] = s.STACK[j]) ∧
    ((∀ x, i ≠ .skp x ∧ i ≠ .sknp x) → t.env = s.env)

/-- LD I, ADD I and LD F change `I` alone; LD DT and LD ST their timer alone; HALT the run state and the event stream alone;
LD Vx, K the run state alone: every general register, `pc`, every byte of memory, every pixel and all else is kept. Which timer
LD DT and LD ST write is PRESUMED (D7, log 7); what HALT and LD Vx, K do to the run state and the events is the spec's decisions
D17 and D18 (log 20); that ADD I and LD F set no flag is D19 (log 21). -/
def Obligations.FrameOfIndexTimerAndSystem : Prop :=
  ∀ (s : State) (nnn : Addr12) (x : RegIdx) (i : Instr) (t : State), exec i s = .next t →
    ((i = .ldI nnn ∨ i = .addIVx x ∨ i = .ldF x) → t = { s with I := t.I }) ∧
    (i = .ldDTVx x → t = { s with DT := t.DT }) ∧
    (i = .ldSTVx x → t = { s with ST := t.ST }) ∧
    (i = .halt → t = { s with RS := t.RS, EV := t.EV }) ∧
    (i = .ldVxK x → t = { s with RS := t.RS })

/-- The two stores, LD B (three bytes at `I`) and LD [I], Vx (`x + 1` bytes at `I`), leave alone every byte outside those they
store, every register, `pc`, `I`, the stack, the timers, the screen and all else; when they fault, every byte. That they keep
`I` is the spec's decision D19 (log 21, unsafe), and what a fault leaves is D12 (log 16, unsafe). -/
def Obligations.FrameOfStores : Prop :=
  ∀ (i : Instr) (s t : State) (x : RegIdx), i = .ldB x ∨ i = .storeRegs x → exec i s = .next t →
    (i = .ldB x → MemoryKeptOutside s.I 3 s t) ∧
    (i = .storeRegs x → MemoryKeptOutside s.I (x.toNat + 1) s t) ∧
    (faultsIn i s → MemoryKept s t) ∧ (¬ faultsIn i s → RunKept s t) ∧
    t = { s with MEM := t.MEM, RS := t.RS, FR := t.FR }

/-- CLS and DRW leave alone every register but VF (CLS that too), `pc`, `I`, the stack, the timers, every byte of memory and
all else; a DRW that faults leaves VF and the screen alone. That DRW keeps `I` is the spec's decision D19 (log 21), and what a
fault leaves is D12 (log 16). -/
def Obligations.FrameOfDisplayInstructions : Prop :=
  ∀ (i : Instr) (s t : State), (i = .cls ∨ ∃ x y n, i = .drw x y n) → exec i s = .next t →
    RegsKept (destRegs i) s t ∧ MemoryKept s t ∧ (¬ faultsIn i s → RunKept s t) ∧
    (faultsIn i s → t.V = s.V ∧ ScreenKept s t) ∧
    t = { s with V := t.V, FB := t.FB, EV := t.EV, RS := t.RS, FR := t.FR }

/-! ### Reset and load -/

/-- After reset: `pc` is 0x200, the run state RUNNING, no fault record, the stack empty, V0 zero, every pixel 0, no event, the
font at 0, its glyph 0 the source's five bytes under every configuration, and zero above it (spec/00_scope.md R7,
spec/10_state.md R41, R55, spec/70_reset_and_hazards.md R261); V1 to VF, `I`, the stack entries and
the timers are zero by the spec's decision D13 (log 9). -/
def Obligations.ResetHoldsTheseValues : Prop :=
  ∀ cfg : Config, ∀ s, s = State.resetWith cfg →
    s.pc = 0x200 ∧ s.RS = .running ∧ s.FR = none ∧ s.SP = 0 ∧ (∀ r, s.reg r = 0#8) ∧ s.I = 0 ∧
    (∀ (j : Nat) (hj : j < 16), s.STACK[j] = 0) ∧ s.DT = 0#8 ∧ s.ST = 0#8 ∧
    (∀ r c, s.pixel r c = false) ∧ s.EV = [] ∧ s.LOG = [] ∧ s.LOADPTR = 0x200 ∧
    [s.readByte 0, s.readByte 1, s.readByte 2, s.readByte 3, s.readByte 4] = [0xF0, 0x90, 0x90, 0x90, 0xF0] ∧
    (∀ (j : Nat) (h : j < 75), s.readByte (5 + j) = cfg.glyphs1toF[j]) ∧ (∀ a, 80 ≤ a → s.readByte a = 0#8)

/-- A load that fits puts the bytes at the loader offset, advances it by their number, and changes nothing else; one that does
not fit is a load error (spec/20_memory.md R80, R82; the check is decision D22, log 23). -/
def Obligations.LoadAppendsTheImage : Prop :=
  ∀ (s : State) (bytes : List Byte),
    (s.LOADPTR + bytes.length ≤ 4096 → ∃ t, s.loadProgram bytes = .ok t ∧
      (∀ (j : Nat) (hj : j < bytes.length), t.readByte (s.LOADPTR + j) = bytes[j]) ∧
      MemoryKeptOutside s.LOADPTR bytes.length s t ∧ t.LOADPTR = s.LOADPTR + bytes.length ∧
      t = { s with MEM := t.MEM, LOADPTR := t.LOADPTR }) ∧
    (4096 < s.LOADPTR + bytes.length → s.loadProgram bytes = .error .imageTooLarge)

/-- Two loads in turn that fit append, they do not replace: they are one load of the concatenation, the first image stands at
the loader offset, the second after it, and `pc` is still what it was (spec/20_memory.md R81). -/
def Obligations.RepeatedLoadsConcatenate : Prop :=
  ∀ (s : State) (first second : List Byte), s.LOADPTR + first.length + second.length ≤ 4096 →
    ∃ t u, s.loadProgram first = .ok t ∧ t.loadProgram second = .ok u ∧ s.loadProgram (first ++ second) = .ok u ∧
      (∀ (j : Nat) (hj : j < first.length), u.readByte (s.LOADPTR + j) = first[j]) ∧
      (∀ (j : Nat) (hj : j < second.length), u.readByte (s.LOADPTR + first.length + j) = second[j]) ∧ u.pc = s.pc
end

