-- ==== Sys2Proof/Laws/Decode.lean ====
section
/-! SUPPORT. The fields of a word built from fields, and a word from its fields. -/

namespace Sys2Proof

/-! ### Cutting and joining, for any widths -/

theorem extract_high {m n : Nat} (a : BitVec m) (b : BitVec n) : (a ++ b).extractLsb' n m = a := by
  ext i hi; simp [BitVec.getLsbD_append, hi]

theorem extract_low {m n k j : Nat} (a : BitVec m) (b : BitVec n) (h : j + k ≤ n) :
    (a ++ b).extractLsb' j k = b.extractLsb' j k := by
  ext i hi
  have : j + i < n := by omega
  simp [BitVec.getLsbD_append, this]

theorem extract_all {n : Nat} (b : BitVec n) : b.extractLsb' 0 n = b := by
  ext i hi; simp

theorem join_high_low {m n : Nat} (a : BitVec (m + n)) : a.extractLsb' n m ++ a.extractLsb' 0 n = a := by
  ext i hi
  rw [BitVec.getElem_append]
  split
  · simp [BitVec.getLsbD_eq_getElem hi]
  · have : n + (i - n) = i := by omega
    simp [this, BitVec.getLsbD_eq_getElem hi]

theorem extract_extract {w j k j' k' : Nat} (a : BitVec w) (h : j' + k' ≤ k) :
    (a.extractLsb' j k).extractLsb' j' k' = a.extractLsb' (j + j') k' := by
  ext i hi
  have : j' + i < k := by omega
  simp [this, Nat.add_assoc]

/-! ### The fields of an encoded word -/

@[simp] theorem opH_encA (h : Nibble) (nnn : Addr12) : opH (encA h nnn) = h := extract_high h nnn

@[simp] theorem opNNN_encA (h : Nibble) (nnn : Addr12) : opNNN (encA h nnn) = nnn :=
  (extract_low h nnn (by omega)).trans (extract_all nnn)

/-- Format `XK` is format `A` with `nnn = x ++ kk` (spec/30_encoding.md R91). -/
theorem encXK_eq (h : Nibble) (x : RegIdx) (kk : Byte) : encXK h x kk = encA h (x ++ kk) := rfl

/-- Format `XYN` is format `XK` with `kk = y ++ n` (spec/30_encoding.md R91). -/
theorem encXYN_eq (h : Nibble) (x y : RegIdx) (n : Nibble) : encXYN h x y n = encXK h x (y ++ n) := rfl

@[simp] theorem opH_encXK (h : Nibble) (x : RegIdx) (kk : Byte) : opH (encXK h x kk) = h := opH_encA h _

@[simp] theorem opX_encXK (h : Nibble) (x : RegIdx) (kk : Byte) : opX (encXK h x kk) = x :=
  (extract_low h (x ++ kk : Addr12) (by omega)).trans (extract_high x kk)

@[simp] theorem opKK_encXK (h : Nibble) (x : RegIdx) (kk : Byte) : opKK (encXK h x kk) = kk :=
  (extract_low h (x ++ kk : Addr12) (by omega)).trans ((extract_low x kk (by omega)).trans (extract_all kk))

@[simp] theorem opH_encXYN (h : Nibble) (x y : RegIdx) (n : Nibble) : opH (encXYN h x y n) = h := opH_encXK h x _

@[simp] theorem opX_encXYN (h : Nibble) (x y : RegIdx) (n : Nibble) : opX (encXYN h x y n) = x := opX_encXK h x _

theorem opY_eq (op : Word) : opY op = (opKK op).extractLsb' 4 4 := by
  rw [opKK, extract_extract op (by omega)]; rfl

theorem opN_eq (op : Word) : opN op = (opKK op).extractLsb' 0 4 := by
  rw [opKK, extract_extract op (by omega)]; rfl

@[simp] theorem opKK_encXYN (h : Nibble) (x y : RegIdx) (n : Nibble) : opKK (encXYN h x y n) = y ++ n :=
  opKK_encXK h x _

@[simp] theorem opY_encXYN (h : Nibble) (x y : RegIdx) (n : Nibble) : opY (encXYN h x y n) = y := by
  rw [opY_eq, opKK_encXYN]; exact extract_high y n

@[simp] theorem opN_encXYN (h : Nibble) (x y : RegIdx) (n : Nibble) : opN (encXYN h x y n) = n := by
  rw [opN_eq, opKK_encXYN]; exact (extract_low y n (by omega)).trans (extract_all n)

/-! ### A word from its fields -/

/-- A word is its `h` and `nnn` fields (spec/30_encoding.md R91). -/
theorem encA_fields (op : Word) : encA (opH op) (opNNN op) = op := join_high_low (m := 4) (n := 12) op

theorem opNNN_eq (op : Word) : opNNN op = (opX op ++ opKK op : Addr12) := by
  have hx : opX op = (opNNN op).extractLsb' 8 4 := by rw [opNNN, extract_extract op (by omega)]; rfl
  have hk : opKK op = (opNNN op).extractLsb' 0 8 := by rw [opNNN, extract_extract op (by omega)]; rfl
  rw [hx, hk]
  exact (join_high_low (m := 4) (n := 8) (opNNN op)).symm

/-- A word is its `h`, `x` and `kk` fields (spec/30_encoding.md R91). -/
theorem encXK_fields (op : Word) : encXK (opH op) (opX op) (opKK op) = op := by
  rw [encXK_eq, ← opNNN_eq, encA_fields]

/-- A word is its `h`, `x`, `y` and `n` fields (spec/30_encoding.md R91). -/
theorem encXYN_fields (op : Word) : encXYN (opH op) (opX op) (opY op) (opN op) = op := by
  have : (opY op ++ opN op : Byte) = opKK op := by
    rw [opY_eq, opN_eq]; exact join_high_low (m := 4) (n := 4) (opKK op)
  rw [encXYN_eq, this, encXK_fields]

/-- The two bytes of an opcode, combined, are the opcode (spec/30_encoding.md R90, spec/20_memory.md R60). -/
@[simp] theorem combineBytes_high_low (op : Word) : combineBytes (highByte op) (lowByte op) = op :=
  join_high_low (m := 8) (n := 8) op

@[simp] theorem opcodeBytes_length (op : Word) : (opcodeBytes op).length = 2 := rfl

end Sys2Proof
end

