-- ==== Sys2Proof/Laws/State.lean ====
section
/-! SUPPORT. One lemma per field per named update of the state, so that no later proof unfolds a record update. -/

namespace Sys2Proof.Machine

variable (s : State)


/-! #### `State.setReg` -/

@[simp] theorem State.setReg_V (x : RegIdx) (b : Byte) : (s.setReg x b).V = s.V.set x.toNat b x.isLt := rfl
@[simp] theorem State.setReg_pc (x : RegIdx) (b : Byte) : (s.setReg x b).pc = s.pc := rfl
@[simp] theorem State.setReg_I (x : RegIdx) (b : Byte) : (s.setReg x b).I = s.I := rfl
@[simp] theorem State.setReg_SP (x : RegIdx) (b : Byte) : (s.setReg x b).SP = s.SP := rfl
@[simp] theorem State.setReg_STACK (x : RegIdx) (b : Byte) : (s.setReg x b).STACK = s.STACK := rfl
@[simp] theorem State.setReg_DT (x : RegIdx) (b : Byte) : (s.setReg x b).DT = s.DT := rfl
@[simp] theorem State.setReg_ST (x : RegIdx) (b : Byte) : (s.setReg x b).ST = s.ST := rfl
@[simp] theorem State.setReg_MEM (x : RegIdx) (b : Byte) : (s.setReg x b).MEM = s.MEM := rfl
@[simp] theorem State.setReg_FB (x : RegIdx) (b : Byte) : (s.setReg x b).FB = s.FB := rfl
@[simp] theorem State.setReg_RS (x : RegIdx) (b : Byte) : (s.setReg x b).RS = s.RS := rfl
@[simp] theorem State.setReg_FR (x : RegIdx) (b : Byte) : (s.setReg x b).FR = s.FR := rfl
@[simp] theorem State.setReg_EV (x : RegIdx) (b : Byte) : (s.setReg x b).EV = s.EV := rfl
@[simp] theorem State.setReg_LOG (x : RegIdx) (b : Byte) : (s.setReg x b).LOG = s.LOG := rfl
@[simp] theorem State.setReg_LOADPTR (x : RegIdx) (b : Byte) : (s.setReg x b).LOADPTR = s.LOADPTR := rfl
@[simp] theorem State.setReg_cfg (x : RegIdx) (b : Byte) : (s.setReg x b).cfg = s.cfg := rfl
@[simp] theorem State.setReg_env (x : RegIdx) (b : Byte) : (s.setReg x b).env = s.env := rfl

/-! #### `State.setPc` -/

@[simp] theorem State.setPc_V (a : Nat) : (s.setPc a).V = s.V := rfl
@[simp] theorem State.setPc_pc (a : Nat) : (s.setPc a).pc = a := rfl
@[simp] theorem State.setPc_I (a : Nat) : (s.setPc a).I = s.I := rfl
@[simp] theorem State.setPc_SP (a : Nat) : (s.setPc a).SP = s.SP := rfl
@[simp] theorem State.setPc_STACK (a : Nat) : (s.setPc a).STACK = s.STACK := rfl
@[simp] theorem State.setPc_DT (a : Nat) : (s.setPc a).DT = s.DT := rfl
@[simp] theorem State.setPc_ST (a : Nat) : (s.setPc a).ST = s.ST := rfl
@[simp] theorem State.setPc_MEM (a : Nat) : (s.setPc a).MEM = s.MEM := rfl
@[simp] theorem State.setPc_FB (a : Nat) : (s.setPc a).FB = s.FB := rfl
@[simp] theorem State.setPc_RS (a : Nat) : (s.setPc a).RS = s.RS := rfl
@[simp] theorem State.setPc_FR (a : Nat) : (s.setPc a).FR = s.FR := rfl
@[simp] theorem State.setPc_EV (a : Nat) : (s.setPc a).EV = s.EV := rfl
@[simp] theorem State.setPc_LOG (a : Nat) : (s.setPc a).LOG = s.LOG := rfl
@[simp] theorem State.setPc_LOADPTR (a : Nat) : (s.setPc a).LOADPTR = s.LOADPTR := rfl
@[simp] theorem State.setPc_cfg (a : Nat) : (s.setPc a).cfg = s.cfg := rfl
@[simp] theorem State.setPc_env (a : Nat) : (s.setPc a).env = s.env := rfl

/-! #### `State.setI` -/

@[simp] theorem State.setI_V (a : Nat) : (s.setI a).V = s.V := rfl
@[simp] theorem State.setI_pc (a : Nat) : (s.setI a).pc = s.pc := rfl
@[simp] theorem State.setI_I (a : Nat) : (s.setI a).I = a := rfl
@[simp] theorem State.setI_SP (a : Nat) : (s.setI a).SP = s.SP := rfl
@[simp] theorem State.setI_STACK (a : Nat) : (s.setI a).STACK = s.STACK := rfl
@[simp] theorem State.setI_DT (a : Nat) : (s.setI a).DT = s.DT := rfl
@[simp] theorem State.setI_ST (a : Nat) : (s.setI a).ST = s.ST := rfl
@[simp] theorem State.setI_MEM (a : Nat) : (s.setI a).MEM = s.MEM := rfl
@[simp] theorem State.setI_FB (a : Nat) : (s.setI a).FB = s.FB := rfl
@[simp] theorem State.setI_RS (a : Nat) : (s.setI a).RS = s.RS := rfl
@[simp] theorem State.setI_FR (a : Nat) : (s.setI a).FR = s.FR := rfl
@[simp] theorem State.setI_EV (a : Nat) : (s.setI a).EV = s.EV := rfl
@[simp] theorem State.setI_LOG (a : Nat) : (s.setI a).LOG = s.LOG := rfl
@[simp] theorem State.setI_LOADPTR (a : Nat) : (s.setI a).LOADPTR = s.LOADPTR := rfl
@[simp] theorem State.setI_cfg (a : Nat) : (s.setI a).cfg = s.cfg := rfl
@[simp] theorem State.setI_env (a : Nat) : (s.setI a).env = s.env := rfl

/-! #### `State.setDT` -/

@[simp] theorem State.setDT_V (b : Byte) : (s.setDT b).V = s.V := rfl
@[simp] theorem State.setDT_pc (b : Byte) : (s.setDT b).pc = s.pc := rfl
@[simp] theorem State.setDT_I (b : Byte) : (s.setDT b).I = s.I := rfl
@[simp] theorem State.setDT_SP (b : Byte) : (s.setDT b).SP = s.SP := rfl
@[simp] theorem State.setDT_STACK (b : Byte) : (s.setDT b).STACK = s.STACK := rfl
@[simp] theorem State.setDT_DT (b : Byte) : (s.setDT b).DT = b := rfl
@[simp] theorem State.setDT_ST (b : Byte) : (s.setDT b).ST = s.ST := rfl
@[simp] theorem State.setDT_MEM (b : Byte) : (s.setDT b).MEM = s.MEM := rfl
@[simp] theorem State.setDT_FB (b : Byte) : (s.setDT b).FB = s.FB := rfl
@[simp] theorem State.setDT_RS (b : Byte) : (s.setDT b).RS = s.RS := rfl
@[simp] theorem State.setDT_FR (b : Byte) : (s.setDT b).FR = s.FR := rfl
@[simp] theorem State.setDT_EV (b : Byte) : (s.setDT b).EV = s.EV := rfl
@[simp] theorem State.setDT_LOG (b : Byte) : (s.setDT b).LOG = s.LOG := rfl
@[simp] theorem State.setDT_LOADPTR (b : Byte) : (s.setDT b).LOADPTR = s.LOADPTR := rfl
@[simp] theorem State.setDT_cfg (b : Byte) : (s.setDT b).cfg = s.cfg := rfl
@[simp] theorem State.setDT_env (b : Byte) : (s.setDT b).env = s.env := rfl

/-! #### `State.setST` -/

@[simp] theorem State.setST_V (b : Byte) : (s.setST b).V = s.V := rfl
@[simp] theorem State.setST_pc (b : Byte) : (s.setST b).pc = s.pc := rfl
@[simp] theorem State.setST_I (b : Byte) : (s.setST b).I = s.I := rfl
@[simp] theorem State.setST_SP (b : Byte) : (s.setST b).SP = s.SP := rfl
@[simp] theorem State.setST_STACK (b : Byte) : (s.setST b).STACK = s.STACK := rfl
@[simp] theorem State.setST_DT (b : Byte) : (s.setST b).DT = s.DT := rfl
@[simp] theorem State.setST_ST (b : Byte) : (s.setST b).ST = b := rfl
@[simp] theorem State.setST_MEM (b : Byte) : (s.setST b).MEM = s.MEM := rfl
@[simp] theorem State.setST_FB (b : Byte) : (s.setST b).FB = s.FB := rfl
@[simp] theorem State.setST_RS (b : Byte) : (s.setST b).RS = s.RS := rfl
@[simp] theorem State.setST_FR (b : Byte) : (s.setST b).FR = s.FR := rfl
@[simp] theorem State.setST_EV (b : Byte) : (s.setST b).EV = s.EV := rfl
@[simp] theorem State.setST_LOG (b : Byte) : (s.setST b).LOG = s.LOG := rfl
@[simp] theorem State.setST_LOADPTR (b : Byte) : (s.setST b).LOADPTR = s.LOADPTR := rfl
@[simp] theorem State.setST_cfg (b : Byte) : (s.setST b).cfg = s.cfg := rfl
@[simp] theorem State.setST_env (b : Byte) : (s.setST b).env = s.env := rfl

/-! #### `State.setRS` -/

@[simp] theorem State.setRS_V (rs : RunState) : (s.setRS rs).V = s.V := rfl
@[simp] theorem State.setRS_pc (rs : RunState) : (s.setRS rs).pc = s.pc := rfl
@[simp] theorem State.setRS_I (rs : RunState) : (s.setRS rs).I = s.I := rfl
@[simp] theorem State.setRS_SP (rs : RunState) : (s.setRS rs).SP = s.SP := rfl
@[simp] theorem State.setRS_STACK (rs : RunState) : (s.setRS rs).STACK = s.STACK := rfl
@[simp] theorem State.setRS_DT (rs : RunState) : (s.setRS rs).DT = s.DT := rfl
@[simp] theorem State.setRS_ST (rs : RunState) : (s.setRS rs).ST = s.ST := rfl
@[simp] theorem State.setRS_MEM (rs : RunState) : (s.setRS rs).MEM = s.MEM := rfl
@[simp] theorem State.setRS_FB (rs : RunState) : (s.setRS rs).FB = s.FB := rfl
@[simp] theorem State.setRS_RS (rs : RunState) : (s.setRS rs).RS = rs := rfl
@[simp] theorem State.setRS_FR (rs : RunState) : (s.setRS rs).FR = s.FR := rfl
@[simp] theorem State.setRS_EV (rs : RunState) : (s.setRS rs).EV = s.EV := rfl
@[simp] theorem State.setRS_LOG (rs : RunState) : (s.setRS rs).LOG = s.LOG := rfl
@[simp] theorem State.setRS_LOADPTR (rs : RunState) : (s.setRS rs).LOADPTR = s.LOADPTR := rfl
@[simp] theorem State.setRS_cfg (rs : RunState) : (s.setRS rs).cfg = s.cfg := rfl
@[simp] theorem State.setRS_env (rs : RunState) : (s.setRS rs).env = s.env := rfl

/-! #### `State.setFlag` -/

@[simp] theorem State.setFlag_V (c : Bool) : (s.setFlag c).V = s.V.set 15 (flagByte c) := rfl
@[simp] theorem State.setFlag_pc (c : Bool) : (s.setFlag c).pc = s.pc := rfl
@[simp] theorem State.setFlag_I (c : Bool) : (s.setFlag c).I = s.I := rfl
@[simp] theorem State.setFlag_SP (c : Bool) : (s.setFlag c).SP = s.SP := rfl
@[simp] theorem State.setFlag_STACK (c : Bool) : (s.setFlag c).STACK = s.STACK := rfl
@[simp] theorem State.setFlag_DT (c : Bool) : (s.setFlag c).DT = s.DT := rfl
@[simp] theorem State.setFlag_ST (c : Bool) : (s.setFlag c).ST = s.ST := rfl
@[simp] theorem State.setFlag_MEM (c : Bool) : (s.setFlag c).MEM = s.MEM := rfl
@[simp] theorem State.setFlag_FB (c : Bool) : (s.setFlag c).FB = s.FB := rfl
@[simp] theorem State.setFlag_RS (c : Bool) : (s.setFlag c).RS = s.RS := rfl
@[simp] theorem State.setFlag_FR (c : Bool) : (s.setFlag c).FR = s.FR := rfl
@[simp] theorem State.setFlag_EV (c : Bool) : (s.setFlag c).EV = s.EV := rfl
@[simp] theorem State.setFlag_LOG (c : Bool) : (s.setFlag c).LOG = s.LOG := rfl
@[simp] theorem State.setFlag_LOADPTR (c : Bool) : (s.setFlag c).LOADPTR = s.LOADPTR := rfl
@[simp] theorem State.setFlag_cfg (c : Bool) : (s.setFlag c).cfg = s.cfg := rfl
@[simp] theorem State.setFlag_env (c : Bool) : (s.setFlag c).env = s.env := rfl

/-! #### `State.setResultAndFlag` -/

@[simp] theorem State.setResultAndFlag_V (x : RegIdx) (b : Byte) (c : Bool) : (s.setResultAndFlag x b c).V = (s.V.set x.toNat b x.isLt).set 15 (flagByte c) := rfl
@[simp] theorem State.setResultAndFlag_pc (x : RegIdx) (b : Byte) (c : Bool) : (s.setResultAndFlag x b c).pc = s.pc := rfl
@[simp] theorem State.setResultAndFlag_I (x : RegIdx) (b : Byte) (c : Bool) : (s.setResultAndFlag x b c).I = s.I := rfl
@[simp] theorem State.setResultAndFlag_SP (x : RegIdx) (b : Byte) (c : Bool) : (s.setResultAndFlag x b c).SP = s.SP := rfl
@[simp] theorem State.setResultAndFlag_STACK (x : RegIdx) (b : Byte) (c : Bool) : (s.setResultAndFlag x b c).STACK = s.STACK := rfl
@[simp] theorem State.setResultAndFlag_DT (x : RegIdx) (b : Byte) (c : Bool) : (s.setResultAndFlag x b c).DT = s.DT := rfl
@[simp] theorem State.setResultAndFlag_ST (x : RegIdx) (b : Byte) (c : Bool) : (s.setResultAndFlag x b c).ST = s.ST := rfl
@[simp] theorem State.setResultAndFlag_MEM (x : RegIdx) (b : Byte) (c : Bool) : (s.setResultAndFlag x b c).MEM = s.MEM := rfl
@[simp] theorem State.setResultAndFlag_FB (x : RegIdx) (b : Byte) (c : Bool) : (s.setResultAndFlag x b c).FB = s.FB := rfl
@[simp] theorem State.setResultAndFlag_RS (x : RegIdx) (b : Byte) (c : Bool) : (s.setResultAndFlag x b c).RS = s.RS := rfl
@[simp] theorem State.setResultAndFlag_FR (x : RegIdx) (b : Byte) (c : Bool) : (s.setResultAndFlag x b c).FR = s.FR := rfl
@[simp] theorem State.setResultAndFlag_EV (x : RegIdx) (b : Byte) (c : Bool) : (s.setResultAndFlag x b c).EV = s.EV := rfl
@[simp] theorem State.setResultAndFlag_LOG (x : RegIdx) (b : Byte) (c : Bool) : (s.setResultAndFlag x b c).LOG = s.LOG := rfl
@[simp] theorem State.setResultAndFlag_LOADPTR (x : RegIdx) (b : Byte) (c : Bool) : (s.setResultAndFlag x b c).LOADPTR = s.LOADPTR := rfl
@[simp] theorem State.setResultAndFlag_cfg (x : RegIdx) (b : Byte) (c : Bool) : (s.setResultAndFlag x b c).cfg = s.cfg := rfl
@[simp] theorem State.setResultAndFlag_env (x : RegIdx) (b : Byte) (c : Bool) : (s.setResultAndFlag x b c).env = s.env := rfl

/-! #### `State.emit` -/

@[simp] theorem State.emit_V (e : Event) : (s.emit e).V = s.V := rfl
@[simp] theorem State.emit_pc (e : Event) : (s.emit e).pc = s.pc := rfl
@[simp] theorem State.emit_I (e : Event) : (s.emit e).I = s.I := rfl
@[simp] theorem State.emit_SP (e : Event) : (s.emit e).SP = s.SP := rfl
@[simp] theorem State.emit_STACK (e : Event) : (s.emit e).STACK = s.STACK := rfl
@[simp] theorem State.emit_DT (e : Event) : (s.emit e).DT = s.DT := rfl
@[simp] theorem State.emit_ST (e : Event) : (s.emit e).ST = s.ST := rfl
@[simp] theorem State.emit_MEM (e : Event) : (s.emit e).MEM = s.MEM := rfl
@[simp] theorem State.emit_FB (e : Event) : (s.emit e).FB = s.FB := rfl
@[simp] theorem State.emit_RS (e : Event) : (s.emit e).RS = s.RS := rfl
@[simp] theorem State.emit_FR (e : Event) : (s.emit e).FR = s.FR := rfl
@[simp] theorem State.emit_EV (e : Event) : (s.emit e).EV = s.EV ++ [e] := rfl
@[simp] theorem State.emit_LOG (e : Event) : (s.emit e).LOG = s.LOG := rfl
@[simp] theorem State.emit_LOADPTR (e : Event) : (s.emit e).LOADPTR = s.LOADPTR := rfl
@[simp] theorem State.emit_cfg (e : Event) : (s.emit e).cfg = s.cfg := rfl
@[simp] theorem State.emit_env (e : Event) : (s.emit e).env = s.env := rfl

/-! #### `State.writeByte` -/

@[simp] theorem State.writeByte_V (a : Nat) (b : Byte) : (s.writeByte a b).V = s.V := rfl
@[simp] theorem State.writeByte_pc (a : Nat) (b : Byte) : (s.writeByte a b).pc = s.pc := rfl
@[simp] theorem State.writeByte_I (a : Nat) (b : Byte) : (s.writeByte a b).I = s.I := rfl
@[simp] theorem State.writeByte_SP (a : Nat) (b : Byte) : (s.writeByte a b).SP = s.SP := rfl
@[simp] theorem State.writeByte_STACK (a : Nat) (b : Byte) : (s.writeByte a b).STACK = s.STACK := rfl
@[simp] theorem State.writeByte_DT (a : Nat) (b : Byte) : (s.writeByte a b).DT = s.DT := rfl
@[simp] theorem State.writeByte_ST (a : Nat) (b : Byte) : (s.writeByte a b).ST = s.ST := rfl
@[simp] theorem State.writeByte_MEM (a : Nat) (b : Byte) : (s.writeByte a b).MEM = Memory.write s.cfg.font s.MEM a b := rfl
@[simp] theorem State.writeByte_FB (a : Nat) (b : Byte) : (s.writeByte a b).FB = s.FB := rfl
@[simp] theorem State.writeByte_RS (a : Nat) (b : Byte) : (s.writeByte a b).RS = s.RS := rfl
@[simp] theorem State.writeByte_FR (a : Nat) (b : Byte) : (s.writeByte a b).FR = s.FR := rfl
@[simp] theorem State.writeByte_EV (a : Nat) (b : Byte) : (s.writeByte a b).EV = s.EV := rfl
@[simp] theorem State.writeByte_LOG (a : Nat) (b : Byte) : (s.writeByte a b).LOG = s.LOG := rfl
@[simp] theorem State.writeByte_LOADPTR (a : Nat) (b : Byte) : (s.writeByte a b).LOADPTR = s.LOADPTR := rfl
@[simp] theorem State.writeByte_cfg (a : Nat) (b : Byte) : (s.writeByte a b).cfg = s.cfg := rfl
@[simp] theorem State.writeByte_env (a : Nat) (b : Byte) : (s.writeByte a b).env = s.env := rfl

/-! #### `State.loadRegsUpTo` -/

@[simp] theorem State.loadRegsUpTo_pc (x : RegIdx) : (s.loadRegsUpTo x).pc = s.pc := rfl
@[simp] theorem State.loadRegsUpTo_I (x : RegIdx) : (s.loadRegsUpTo x).I = s.I := rfl
@[simp] theorem State.loadRegsUpTo_SP (x : RegIdx) : (s.loadRegsUpTo x).SP = s.SP := rfl
@[simp] theorem State.loadRegsUpTo_STACK (x : RegIdx) : (s.loadRegsUpTo x).STACK = s.STACK := rfl
@[simp] theorem State.loadRegsUpTo_DT (x : RegIdx) : (s.loadRegsUpTo x).DT = s.DT := rfl
@[simp] theorem State.loadRegsUpTo_ST (x : RegIdx) : (s.loadRegsUpTo x).ST = s.ST := rfl
@[simp] theorem State.loadRegsUpTo_MEM (x : RegIdx) : (s.loadRegsUpTo x).MEM = s.MEM := rfl
@[simp] theorem State.loadRegsUpTo_FB (x : RegIdx) : (s.loadRegsUpTo x).FB = s.FB := rfl
@[simp] theorem State.loadRegsUpTo_RS (x : RegIdx) : (s.loadRegsUpTo x).RS = s.RS := rfl
@[simp] theorem State.loadRegsUpTo_FR (x : RegIdx) : (s.loadRegsUpTo x).FR = s.FR := rfl
@[simp] theorem State.loadRegsUpTo_EV (x : RegIdx) : (s.loadRegsUpTo x).EV = s.EV := rfl
@[simp] theorem State.loadRegsUpTo_LOG (x : RegIdx) : (s.loadRegsUpTo x).LOG = s.LOG := rfl
@[simp] theorem State.loadRegsUpTo_LOADPTR (x : RegIdx) : (s.loadRegsUpTo x).LOADPTR = s.LOADPTR := rfl
@[simp] theorem State.loadRegsUpTo_cfg (x : RegIdx) : (s.loadRegsUpTo x).cfg = s.cfg := rfl
@[simp] theorem State.loadRegsUpTo_env (x : RegIdx) : (s.loadRegsUpTo x).env = s.env := rfl

/-! #### `State.enterFault` -/

@[simp] theorem State.enterFault_V (r : FaultRecord) : (s.enterFault r).V = s.V := rfl
@[simp] theorem State.enterFault_pc (r : FaultRecord) : (s.enterFault r).pc = s.pc := rfl
@[simp] theorem State.enterFault_I (r : FaultRecord) : (s.enterFault r).I = s.I := rfl
@[simp] theorem State.enterFault_SP (r : FaultRecord) : (s.enterFault r).SP = s.SP := rfl
@[simp] theorem State.enterFault_STACK (r : FaultRecord) : (s.enterFault r).STACK = s.STACK := rfl
@[simp] theorem State.enterFault_DT (r : FaultRecord) : (s.enterFault r).DT = s.DT := rfl
@[simp] theorem State.enterFault_ST (r : FaultRecord) : (s.enterFault r).ST = s.ST := rfl
@[simp] theorem State.enterFault_MEM (r : FaultRecord) : (s.enterFault r).MEM = s.MEM := rfl
@[simp] theorem State.enterFault_FB (r : FaultRecord) : (s.enterFault r).FB = s.FB := rfl
@[simp] theorem State.enterFault_RS (r : FaultRecord) : (s.enterFault r).RS = .faulted := rfl
@[simp] theorem State.enterFault_FR (r : FaultRecord) : (s.enterFault r).FR = some r := rfl
@[simp] theorem State.enterFault_EV (r : FaultRecord) : (s.enterFault r).EV = s.EV := rfl
@[simp] theorem State.enterFault_LOG (r : FaultRecord) : (s.enterFault r).LOG = s.LOG := rfl
@[simp] theorem State.enterFault_LOADPTR (r : FaultRecord) : (s.enterFault r).LOADPTR = s.LOADPTR := rfl
@[simp] theorem State.enterFault_cfg (r : FaultRecord) : (s.enterFault r).cfg = s.cfg := rfl
@[simp] theorem State.enterFault_env (r : FaultRecord) : (s.enterFault r).env = s.env := rfl

/-! #### `State.clearFb` -/

@[simp] theorem State.clearFb_V : s.clearFb.V = s.V := rfl
@[simp] theorem State.clearFb_pc : s.clearFb.pc = s.pc := rfl
@[simp] theorem State.clearFb_I : s.clearFb.I = s.I := rfl
@[simp] theorem State.clearFb_SP : s.clearFb.SP = s.SP := rfl
@[simp] theorem State.clearFb_STACK : s.clearFb.STACK = s.STACK := rfl
@[simp] theorem State.clearFb_DT : s.clearFb.DT = s.DT := rfl
@[simp] theorem State.clearFb_ST : s.clearFb.ST = s.ST := rfl
@[simp] theorem State.clearFb_MEM : s.clearFb.MEM = s.MEM := rfl
@[simp] theorem State.clearFb_FB : s.clearFb.FB = [] := rfl
@[simp] theorem State.clearFb_RS : s.clearFb.RS = s.RS := rfl
@[simp] theorem State.clearFb_FR : s.clearFb.FR = s.FR := rfl
@[simp] theorem State.clearFb_EV : s.clearFb.EV = s.EV := rfl
@[simp] theorem State.clearFb_LOG : s.clearFb.LOG = s.LOG := rfl
@[simp] theorem State.clearFb_LOADPTR : s.clearFb.LOADPTR = s.LOADPTR := rfl
@[simp] theorem State.clearFb_cfg : s.clearFb.cfg = s.cfg := rfl
@[simp] theorem State.clearFb_env : s.clearFb.env = s.env := rfl

/-! #### `State.blit` -/

@[simp] theorem State.blit_pc (ps : List (Nat × Nat)) : (s.blit ps).pc = s.pc := rfl
@[simp] theorem State.blit_I (ps : List (Nat × Nat)) : (s.blit ps).I = s.I := rfl
@[simp] theorem State.blit_SP (ps : List (Nat × Nat)) : (s.blit ps).SP = s.SP := rfl
@[simp] theorem State.blit_STACK (ps : List (Nat × Nat)) : (s.blit ps).STACK = s.STACK := rfl
@[simp] theorem State.blit_DT (ps : List (Nat × Nat)) : (s.blit ps).DT = s.DT := rfl
@[simp] theorem State.blit_ST (ps : List (Nat × Nat)) : (s.blit ps).ST = s.ST := rfl
@[simp] theorem State.blit_MEM (ps : List (Nat × Nat)) : (s.blit ps).MEM = s.MEM := rfl
@[simp] theorem State.blit_FB (ps : List (Nat × Nat)) : (s.blit ps).FB = (Blit.run ⟨s.FB, s.EV, false⟩ ps).fb := rfl
@[simp] theorem State.blit_RS (ps : List (Nat × Nat)) : (s.blit ps).RS = s.RS := rfl
@[simp] theorem State.blit_FR (ps : List (Nat × Nat)) : (s.blit ps).FR = s.FR := rfl
@[simp] theorem State.blit_EV (ps : List (Nat × Nat)) : (s.blit ps).EV = (Blit.run ⟨s.FB, s.EV, false⟩ ps).ev := rfl
@[simp] theorem State.blit_LOG (ps : List (Nat × Nat)) : (s.blit ps).LOG = s.LOG := rfl
@[simp] theorem State.blit_LOADPTR (ps : List (Nat × Nat)) : (s.blit ps).LOADPTR = s.LOADPTR := rfl
@[simp] theorem State.blit_cfg (ps : List (Nat × Nat)) : (s.blit ps).cfg = s.cfg := rfl
@[simp] theorem State.blit_env (ps : List (Nat × Nat)) : (s.blit ps).env = s.env := rfl

/-! #### `State.countDraw` -/

@[simp] theorem State.countDraw_V : s.countDraw.V = s.V := rfl
@[simp] theorem State.countDraw_pc : s.countDraw.pc = s.pc := rfl
@[simp] theorem State.countDraw_I : s.countDraw.I = s.I := rfl
@[simp] theorem State.countDraw_SP : s.countDraw.SP = s.SP := rfl
@[simp] theorem State.countDraw_STACK : s.countDraw.STACK = s.STACK := rfl
@[simp] theorem State.countDraw_DT : s.countDraw.DT = s.DT := rfl
@[simp] theorem State.countDraw_ST : s.countDraw.ST = s.ST := rfl
@[simp] theorem State.countDraw_MEM : s.countDraw.MEM = s.MEM := rfl
@[simp] theorem State.countDraw_FB : s.countDraw.FB = s.FB := rfl
@[simp] theorem State.countDraw_RS : s.countDraw.RS = s.RS := rfl
@[simp] theorem State.countDraw_FR : s.countDraw.FR = s.FR := rfl
@[simp] theorem State.countDraw_EV : s.countDraw.EV = s.EV := rfl
@[simp] theorem State.countDraw_LOG : s.countDraw.LOG = s.LOG := rfl
@[simp] theorem State.countDraw_LOADPTR : s.countDraw.LOADPTR = s.LOADPTR := rfl
@[simp] theorem State.countDraw_cfg : s.countDraw.cfg = s.cfg := rfl

/-! #### `State.dropTurn` -/

@[simp] theorem State.dropTurn_V : s.dropTurn.V = s.V := rfl
@[simp] theorem State.dropTurn_pc : s.dropTurn.pc = s.pc := rfl
@[simp] theorem State.dropTurn_I : s.dropTurn.I = s.I := rfl
@[simp] theorem State.dropTurn_SP : s.dropTurn.SP = s.SP := rfl
@[simp] theorem State.dropTurn_STACK : s.dropTurn.STACK = s.STACK := rfl
@[simp] theorem State.dropTurn_DT : s.dropTurn.DT = s.DT := rfl
@[simp] theorem State.dropTurn_ST : s.dropTurn.ST = s.ST := rfl
@[simp] theorem State.dropTurn_MEM : s.dropTurn.MEM = s.MEM := rfl
@[simp] theorem State.dropTurn_FB : s.dropTurn.FB = s.FB := rfl
@[simp] theorem State.dropTurn_RS : s.dropTurn.RS = s.RS := rfl
@[simp] theorem State.dropTurn_FR : s.dropTurn.FR = s.FR := rfl
@[simp] theorem State.dropTurn_EV : s.dropTurn.EV = s.EV := rfl
@[simp] theorem State.dropTurn_LOG : s.dropTurn.LOG = s.LOG := rfl
@[simp] theorem State.dropTurn_LOADPTR : s.dropTurn.LOADPTR = s.LOADPTR := rfl
@[simp] theorem State.dropTurn_cfg : s.dropTurn.cfg = s.cfg := rfl
@[simp] theorem State.dropTurn_env : s.dropTurn.env = { s.env with turns := s.env.turns.tail } := rfl

/-! #### `State.countDown` -/

@[simp] theorem State.countDown_V : s.countDown.V = s.V := rfl
@[simp] theorem State.countDown_pc : s.countDown.pc = s.pc := rfl
@[simp] theorem State.countDown_I : s.countDown.I = s.I := rfl
@[simp] theorem State.countDown_SP : s.countDown.SP = s.SP := rfl
@[simp] theorem State.countDown_STACK : s.countDown.STACK = s.STACK := rfl
@[simp] theorem State.countDown_DT : s.countDown.DT = timerAfterTick s.DT := rfl
@[simp] theorem State.countDown_ST : s.countDown.ST = timerAfterTick s.ST := rfl
@[simp] theorem State.countDown_MEM : s.countDown.MEM = s.MEM := rfl
@[simp] theorem State.countDown_FB : s.countDown.FB = s.FB := rfl
@[simp] theorem State.countDown_RS : s.countDown.RS = s.RS := rfl
@[simp] theorem State.countDown_FR : s.countDown.FR = s.FR := rfl
@[simp] theorem State.countDown_EV : s.countDown.EV = s.EV := rfl
@[simp] theorem State.countDown_LOG : s.countDown.LOG = s.LOG := rfl
@[simp] theorem State.countDown_LOADPTR : s.countDown.LOADPTR = s.LOADPTR := rfl
@[simp] theorem State.countDown_cfg : s.countDown.cfg = s.cfg := rfl
@[simp] theorem State.countDown_env : s.countDown.env = s.env := rfl

/-! #### `State.skipIf` -/

@[simp] theorem State.skipIf_pc (c : Bool) : (s.skipIf c).pc = if c then s.pc + 2 else s.pc := by
  cases c <;> rfl
@[simp] theorem State.skipIf_V (c : Bool) : (s.skipIf c).V = s.V := by cases c <;> rfl
@[simp] theorem State.skipIf_I (c : Bool) : (s.skipIf c).I = s.I := by cases c <;> rfl
@[simp] theorem State.skipIf_SP (c : Bool) : (s.skipIf c).SP = s.SP := by cases c <;> rfl
@[simp] theorem State.skipIf_STACK (c : Bool) : (s.skipIf c).STACK = s.STACK := by cases c <;> rfl
@[simp] theorem State.skipIf_DT (c : Bool) : (s.skipIf c).DT = s.DT := by cases c <;> rfl
@[simp] theorem State.skipIf_ST (c : Bool) : (s.skipIf c).ST = s.ST := by cases c <;> rfl
@[simp] theorem State.skipIf_MEM (c : Bool) : (s.skipIf c).MEM = s.MEM := by cases c <;> rfl
@[simp] theorem State.skipIf_FB (c : Bool) : (s.skipIf c).FB = s.FB := by cases c <;> rfl
@[simp] theorem State.skipIf_RS (c : Bool) : (s.skipIf c).RS = s.RS := by cases c <;> rfl
@[simp] theorem State.skipIf_FR (c : Bool) : (s.skipIf c).FR = s.FR := by cases c <;> rfl
@[simp] theorem State.skipIf_EV (c : Bool) : (s.skipIf c).EV = s.EV := by cases c <;> rfl
@[simp] theorem State.skipIf_LOG (c : Bool) : (s.skipIf c).LOG = s.LOG := by cases c <;> rfl
@[simp] theorem State.skipIf_LOADPTR (c : Bool) : (s.skipIf c).LOADPTR = s.LOADPTR := by cases c <;> rfl
@[simp] theorem State.skipIf_cfg (c : Bool) : (s.skipIf c).cfg = s.cfg := by cases c <;> rfl
@[simp] theorem State.skipIf_env (c : Bool) : (s.skipIf c).env = s.env := by cases c <;> rfl

/-! #### `State.writeBytes` -/

@[simp] theorem State.writeBytes_V (a : Nat) (bs : List Byte) : (s.writeBytes a bs).V = s.V := by
  induction bs generalizing s a with
  | nil => rfl
  | cons b bs ih => simp [State.writeBytes, ih]
@[simp] theorem State.writeBytes_pc (a : Nat) (bs : List Byte) : (s.writeBytes a bs).pc = s.pc := by
  induction bs generalizing s a with
  | nil => rfl
  | cons b bs ih => simp [State.writeBytes, ih]
@[simp] theorem State.writeBytes_I (a : Nat) (bs : List Byte) : (s.writeBytes a bs).I = s.I := by
  induction bs generalizing s a with
  | nil => rfl
  | cons b bs ih => simp [State.writeBytes, ih]
@[simp] theorem State.writeBytes_SP (a : Nat) (bs : List Byte) : (s.writeBytes a bs).SP = s.SP := by
  induction bs generalizing s a with
  | nil => rfl
  | cons b bs ih => simp [State.writeBytes, ih]
@[simp] theorem State.writeBytes_STACK (a : Nat) (bs : List Byte) : (s.writeBytes a bs).STACK = s.STACK := by
  induction bs generalizing s a with
  | nil => rfl
  | cons b bs ih => simp [State.writeBytes, ih]
@[simp] theorem State.writeBytes_DT (a : Nat) (bs : List Byte) : (s.writeBytes a bs).DT = s.DT := by
  induction bs generalizing s a with
  | nil => rfl
  | cons b bs ih => simp [State.writeBytes, ih]
@[simp] theorem State.writeBytes_ST (a : Nat) (bs : List Byte) : (s.writeBytes a bs).ST = s.ST := by
  induction bs generalizing s a with
  | nil => rfl
  | cons b bs ih => simp [State.writeBytes, ih]
@[simp] theorem State.writeBytes_FB (a : Nat) (bs : List Byte) : (s.writeBytes a bs).FB = s.FB := by
  induction bs generalizing s a with
  | nil => rfl
  | cons b bs ih => simp [State.writeBytes, ih]
@[simp] theorem State.writeBytes_RS (a : Nat) (bs : List Byte) : (s.writeBytes a bs).RS = s.RS := by
  induction bs generalizing s a with
  | nil => rfl
  | cons b bs ih => simp [State.writeBytes, ih]
@[simp] theorem State.writeBytes_FR (a : Nat) (bs : List Byte) : (s.writeBytes a bs).FR = s.FR := by
  induction bs generalizing s a with
  | nil => rfl
  | cons b bs ih => simp [State.writeBytes, ih]
@[simp] theorem State.writeBytes_EV (a : Nat) (bs : List Byte) : (s.writeBytes a bs).EV = s.EV := by
  induction bs generalizing s a with
  | nil => rfl
  | cons b bs ih => simp [State.writeBytes, ih]
@[simp] theorem State.writeBytes_LOG (a : Nat) (bs : List Byte) : (s.writeBytes a bs).LOG = s.LOG := by
  induction bs generalizing s a with
  | nil => rfl
  | cons b bs ih => simp [State.writeBytes, ih]
@[simp] theorem State.writeBytes_LOADPTR (a : Nat) (bs : List Byte) : (s.writeBytes a bs).LOADPTR = s.LOADPTR := by
  induction bs generalizing s a with
  | nil => rfl
  | cons b bs ih => simp [State.writeBytes, ih]
@[simp] theorem State.writeBytes_cfg (a : Nat) (bs : List Byte) : (s.writeBytes a bs).cfg = s.cfg := by
  induction bs generalizing s a with
  | nil => rfl
  | cons b bs ih => simp [State.writeBytes, ih]
@[simp] theorem State.writeBytes_env (a : Nat) (bs : List Byte) : (s.writeBytes a bs).env = s.env := by
  induction bs generalizing s a with
  | nil => rfl
  | cons b bs ih => simp [State.writeBytes, ih]

/-! #### `State.afterKeypadQuery` -/

@[simp] theorem State.afterKeypadQuery_V : s.afterKeypadQuery.V = s.V := by
  unfold State.afterKeypadQuery; split <;> rfl
@[simp] theorem State.afterKeypadQuery_pc : s.afterKeypadQuery.pc = s.pc := by
  unfold State.afterKeypadQuery; split <;> rfl
@[simp] theorem State.afterKeypadQuery_I : s.afterKeypadQuery.I = s.I := by
  unfold State.afterKeypadQuery; split <;> rfl
@[simp] theorem State.afterKeypadQuery_SP : s.afterKeypadQuery.SP = s.SP := by
  unfold State.afterKeypadQuery; split <;> rfl
@[simp] theorem State.afterKeypadQuery_STACK : s.afterKeypadQuery.STACK = s.STACK := by
  unfold State.afterKeypadQuery; split <;> rfl
@[simp] theorem State.afterKeypadQuery_DT : s.afterKeypadQuery.DT = s.DT := by
  unfold State.afterKeypadQuery; split <;> rfl
@[simp] theorem State.afterKeypadQuery_ST : s.afterKeypadQuery.ST = s.ST := by
  unfold State.afterKeypadQuery; split <;> rfl
@[simp] theorem State.afterKeypadQuery_MEM : s.afterKeypadQuery.MEM = s.MEM := by
  unfold State.afterKeypadQuery; split <;> rfl
@[simp] theorem State.afterKeypadQuery_FB : s.afterKeypadQuery.FB = s.FB := by
  unfold State.afterKeypadQuery; split <;> rfl
@[simp] theorem State.afterKeypadQuery_RS : s.afterKeypadQuery.RS = s.RS := by
  unfold State.afterKeypadQuery; split <;> rfl
@[simp] theorem State.afterKeypadQuery_FR : s.afterKeypadQuery.FR = s.FR := by
  unfold State.afterKeypadQuery; split <;> rfl
@[simp] theorem State.afterKeypadQuery_EV : s.afterKeypadQuery.EV = s.EV := by
  unfold State.afterKeypadQuery; split <;> rfl
@[simp] theorem State.afterKeypadQuery_LOG : s.afterKeypadQuery.LOG = s.LOG := by
  unfold State.afterKeypadQuery; split <;> rfl
@[simp] theorem State.afterKeypadQuery_LOADPTR : s.afterKeypadQuery.LOADPTR = s.LOADPTR := by
  unfold State.afterKeypadQuery; split <;> rfl
@[simp] theorem State.afterKeypadQuery_cfg : s.afterKeypadQuery.cfg = s.cfg := by
  unfold State.afterKeypadQuery; split <;> rfl
@[simp] theorem State.afterKeypadQuery_turns : s.afterKeypadQuery.env.turns = s.env.turns := by
  unfold State.afterKeypadQuery; split <;> rfl

/-! #### `State.afterRandomDraw` -/

@[simp] theorem State.afterRandomDraw_V : s.afterRandomDraw.V = s.V := by
  unfold State.afterRandomDraw; split <;> rfl
@[simp] theorem State.afterRandomDraw_pc : s.afterRandomDraw.pc = s.pc := by
  unfold State.afterRandomDraw; split <;> rfl
@[simp] theorem State.afterRandomDraw_I : s.afterRandomDraw.I = s.I := by
  unfold State.afterRandomDraw; split <;> rfl
@[simp] theorem State.afterRandomDraw_SP : s.afterRandomDraw.SP = s.SP := by
  unfold State.afterRandomDraw; split <;> rfl
@[simp] theorem State.afterRandomDraw_STACK : s.afterRandomDraw.STACK = s.STACK := by
  unfold State.afterRandomDraw; split <;> rfl
@[simp] theorem State.afterRandomDraw_DT : s.afterRandomDraw.DT = s.DT := by
  unfold State.afterRandomDraw; split <;> rfl
@[simp] theorem State.afterRandomDraw_ST : s.afterRandomDraw.ST = s.ST := by
  unfold State.afterRandomDraw; split <;> rfl
@[simp] theorem State.afterRandomDraw_MEM : s.afterRandomDraw.MEM = s.MEM := by
  unfold State.afterRandomDraw; split <;> rfl
@[simp] theorem State.afterRandomDraw_FB : s.afterRandomDraw.FB = s.FB := by
  unfold State.afterRandomDraw; split <;> rfl
@[simp] theorem State.afterRandomDraw_RS : s.afterRandomDraw.RS = s.RS := by
  unfold State.afterRandomDraw; split <;> rfl
@[simp] theorem State.afterRandomDraw_FR : s.afterRandomDraw.FR = s.FR := by
  unfold State.afterRandomDraw; split <;> rfl
@[simp] theorem State.afterRandomDraw_EV : s.afterRandomDraw.EV = s.EV := by
  unfold State.afterRandomDraw; split <;> rfl
@[simp] theorem State.afterRandomDraw_LOG : s.afterRandomDraw.LOG = s.LOG := by
  unfold State.afterRandomDraw; split <;> rfl
@[simp] theorem State.afterRandomDraw_LOADPTR : s.afterRandomDraw.LOADPTR = s.LOADPTR := by
  unfold State.afterRandomDraw; split <;> rfl
@[simp] theorem State.afterRandomDraw_cfg : s.afterRandomDraw.cfg = s.cfg := by
  unfold State.afterRandomDraw; split <;> rfl
@[simp] theorem State.afterRandomDraw_turns : s.afterRandomDraw.env.turns = s.env.turns := by
  unfold State.afterRandomDraw; split <;> rfl

/-! #### `State.withPcWidth` -/

@[simp] theorem State.withPcWidth_V (w : WidthFrom 13) : (s.withPcWidth w).V = s.V := rfl
@[simp] theorem State.withPcWidth_pc (w : WidthFrom 13) : (s.withPcWidth w).pc = s.pc := rfl
@[simp] theorem State.withPcWidth_I (w : WidthFrom 13) : (s.withPcWidth w).I = s.I := rfl
@[simp] theorem State.withPcWidth_SP (w : WidthFrom 13) : (s.withPcWidth w).SP = s.SP := rfl
@[simp] theorem State.withPcWidth_STACK (w : WidthFrom 13) : (s.withPcWidth w).STACK = s.STACK := rfl
@[simp] theorem State.withPcWidth_DT (w : WidthFrom 13) : (s.withPcWidth w).DT = s.DT := rfl
@[simp] theorem State.withPcWidth_ST (w : WidthFrom 13) : (s.withPcWidth w).ST = s.ST := rfl
@[simp] theorem State.withPcWidth_MEM (w : WidthFrom 13) : (s.withPcWidth w).MEM = s.MEM := rfl
@[simp] theorem State.withPcWidth_FB (w : WidthFrom 13) : (s.withPcWidth w).FB = s.FB := rfl
@[simp] theorem State.withPcWidth_RS (w : WidthFrom 13) : (s.withPcWidth w).RS = s.RS := rfl
@[simp] theorem State.withPcWidth_FR (w : WidthFrom 13) : (s.withPcWidth w).FR = s.FR := rfl
@[simp] theorem State.withPcWidth_EV (w : WidthFrom 13) : (s.withPcWidth w).EV = s.EV := rfl
@[simp] theorem State.withPcWidth_LOG (w : WidthFrom 13) : (s.withPcWidth w).LOG = s.LOG := rfl
@[simp] theorem State.withPcWidth_LOADPTR (w : WidthFrom 13) : (s.withPcWidth w).LOADPTR = s.LOADPTR := rfl
@[simp] theorem State.withPcWidth_env (w : WidthFrom 13) : (s.withPcWidth w).env = s.env := rfl
@[simp] theorem State.withPcWidth_cfg_display (w : WidthFrom 13) : (s.withPcWidth w).cfg.display = s.cfg.display := rfl
@[simp] theorem State.withPcWidth_cfg_iWidth (w : WidthFrom 13) : (s.withPcWidth w).cfg.iWidth = s.cfg.iWidth := rfl
@[simp] theorem State.withPcWidth_cfg_glyphs1toF (w : WidthFrom 13) : (s.withPcWidth w).cfg.glyphs1toF = s.cfg.glyphs1toF := rfl
@[simp] theorem State.withPcWidth_cfg_timerTick (w : WidthFrom 13) : (s.withPcWidth w).cfg.timerTick = s.cfg.timerTick := rfl
@[simp] theorem State.withPcWidth_cfg_invalidOpcodePolicy (w : WidthFrom 13) : (s.withPcWidth w).cfg.invalidOpcodePolicy = s.cfg.invalidOpcodePolicy := rfl
@[simp] theorem State.withPcWidth_cfg_font (w : WidthFrom 13) : (s.withPcWidth w).cfg.font = s.cfg.font := rfl
@[simp] theorem State.withPcWidth_cfg_pcWidth (w : WidthFrom 13) : (s.withPcWidth w).cfg.pcWidth = w := rfl

end Sys2Proof.Machine
end

