-- ==== Sys2Proof/Laws/Framebuffer.lean ====
section
/-! SUPPORT. The framebuffer: a pixel read after a pixel write, the canonical form, the blit loop, and the pixels of a
sprite. -/

namespace Sys2Proof.Machine

/-! ### Pixels -/

theorem Fb.mem_insert {fb : List (Nat × Nat)} {p q : Nat × Nat} : q ∈ Fb.insert fb p ↔ q = p ∨ q ∈ fb := by
  induction fb with
  | nil => simp [Fb.insert]
  | cons d rest ih =>
    unfold Fb.insert
    split
    · simp
    · simp only [List.mem_cons, ih]; tauto

theorem Fb.mem_set {fb : List (Nat × Nat)} {r c : Nat} {b : Bool} {q : Nat × Nat} :
    q ∈ Fb.set fb r c b ↔ if q = (r, c) then b = true else q ∈ fb := by
  cases b <;> by_cases h : q = (r, c) <;> simp [Fb.set, Fb.mem_insert, h]

/-- The pixel written holds the bit; every other pixel is as it was. -/
theorem Fb.get_set (fb : List (Nat × Nat)) (r c : Nat) (b : Bool) (r' c' : Nat) :
    Fb.get (Fb.set fb r c b) r' c' = if (r', c') = (r, c) then b else Fb.get fb r' c' := by
  rw [Bool.eq_iff_iff]
  simp only [Fb.get, List.contains_iff_mem, Fb.mem_set]
  split <;> simp

theorem Fb.sorted_insert {fb : List (Nat × Nat)} {p : Nat × Nat} (hs : fb.Pairwise Fb.before) (hp : p ∉ fb) :
    (Fb.insert fb p).Pairwise Fb.before := by
  induction fb with
  | nil => simp [Fb.insert]
  | cons d rest ih =>
    have hd := List.pairwise_cons.1 hs
    have hne : p ≠ d := fun e => hp (by simp [e])
    unfold Fb.insert
    split
    · rename_i hlt
      refine List.pairwise_cons.2 ⟨fun e he => ?_, hs⟩
      rcases List.mem_cons.1 he with he | he
      · exact he ▸ hlt
      · have := hd.1 e he; simp only [Fb.before] at *; omega
    · rename_i hlt
      refine List.pairwise_cons.2 ⟨fun e he => ?_, ih hd.2 fun h => hp (by simp [h])⟩
      rcases Fb.mem_insert.1 he with he | he
      · subst he
        have : ¬ (e.1 = d.1 ∧ e.2 = d.2) := fun h => hne (Prod.ext h.1 h.2)
        simp only [Fb.before] at *; omega
      · exact hd.1 e he

/-- A write inside the framebuffer keeps the canonical form. -/
theorem Fb.set_keeps_wf {d : Display} {fb : List (Nat × Nat)} {r c : Nat} {b : Bool} (h : Fb.wf d fb)
    (hr : r < d.height) (hc : c < d.width) : Fb.wf d (Fb.set fb r c b) := by
  refine ⟨?_, fun p hp => ?_⟩
  · have hf : (fb.filter fun q => q != (r, c)).Pairwise Fb.before := h.1.filter _
    unfold Fb.set
    split
    · exact Fb.sorted_insert hf (by simp)
    · exact hf
  · rw [Fb.mem_set] at hp
    split at hp
    · rename_i e; subst e; exact ⟨hr, hc⟩
    · exact h.2 p hp

/-- Two framebuffers in canonical form with the same pixels are the same list. -/
theorem Fb.wf_ext {d : Display} {fb fb' : List (Nat × Nat)} (h : Fb.wf d fb) (h' : Fb.wf d fb')
    (hp : ∀ r c, Fb.get fb r c = Fb.get fb' r c) : fb = fb' := by
  have hnd : ∀ {l : List (Nat × Nat)}, l.Pairwise Fb.before → l.Nodup := fun hl =>
    hl.imp fun hb e => by subst e; simp only [Fb.before] at hb; omega
  refine List.Perm.eq_of_pairwise (le := Fb.before) ?_ h.1 h'.1
    ((List.perm_ext_iff_of_nodup (hnd h.1) (hnd h'.1)).2 fun p => ?_)
  · intro p q _ _ h1 h2
    simp only [Fb.before] at h1 h2; omega
  · have := hp p.1 p.2
    rw [Bool.eq_iff_iff] at this
    simpa [Fb.get] using this

/-! ### The blit loop -/

@[simp] theorem Blit.run_nil (t : Blit) : t.run [] = t := rfl

@[simp] theorem Blit.run_cons (t : Blit) (p : Nat × Nat) (ps : List (Nat × Nat)) :
    t.run (p :: ps) = (t.pixel p).run ps := rfl

/-- The blit loop over distinct pixels: each pixel of the list is inverted, every other is kept. -/
theorem Blit.run_get (t : Blit) (ps : List (Nat × Nat)) (hps : ps.Nodup) (r c : Nat) :
    Fb.get (t.run ps).fb r c = (Fb.get t.fb r c ^^ decide ((r, c) ∈ ps)) := by
  induction ps generalizing t with
  | nil => simp
  | cons p ps ih =>
    obtain ⟨hp, hps⟩ := List.nodup_cons.1 hps
    rw [Blit.run_cons, ih _ hps, Blit.pixel, Fb.get_set]
    by_cases h : (r, c) = p
    · subst h; simp [hp]
    · have : (r, c) ≠ (p.1, p.2) := h
      simp [this]

/-- The blit loop over distinct pixels: the collision bit is set when some pixel of the list was 1. -/
theorem Blit.run_coll (t : Blit) (ps : List (Nat × Nat)) (hps : ps.Nodup) :
    (t.run ps).coll = (t.coll || ps.any fun p => Fb.get t.fb p.1 p.2) := by
  induction ps generalizing t with
  | nil => simp
  | cons p ps ih =>
    obtain ⟨hp, hps⟩ := List.nodup_cons.1 hps
    rw [Blit.run_cons, ih _ hps]
    have : (ps.any fun q => Fb.get (t.pixel p).fb q.1 q.2) = ps.any fun q => Fb.get t.fb q.1 q.2 := by
      rw [Bool.eq_iff_iff, List.any_eq_true, List.any_eq_true]
      refine exists_congr fun q => and_congr_right fun hq => ?_
      have hne : (q.1, q.2) ≠ (p.1, p.2) := fun e => hp (by rw [show p = q from e.symm]; exact hq)
      rw [Blit.pixel, Fb.get_set, if_neg hne]
    rw [this]
    simp [Blit.pixel, Bool.or_assoc]

/-- The blit loop over distinct pixels: one event per pixel, in order, with the inverted bit. -/
theorem Blit.run_ev (t : Blit) (ps : List (Nat × Nat)) (hps : ps.Nodup) :
    (t.run ps).ev = t.ev ++ ps.map fun p => .draw p.1 p.2 (!Fb.get t.fb p.1 p.2) := by
  induction ps generalizing t with
  | nil => simp
  | cons p ps ih =>
    obtain ⟨hp, hps⟩ := List.nodup_cons.1 hps
    rw [Blit.run_cons, ih _ hps]
    have : (ps.map fun q => Event.draw q.1 q.2 (!Fb.get (t.pixel p).fb q.1 q.2)) =
        ps.map fun q => Event.draw q.1 q.2 (!Fb.get t.fb q.1 q.2) := by
      apply List.map_congr_left
      intro q hq
      have hne : (q.1, q.2) ≠ (p.1, p.2) := fun e => hp (by rw [show p = q from e.symm]; exact hq)
      rw [Blit.pixel, Fb.get_set, if_neg hne]
    rw [this]
    simp [Blit.pixel]

/-- The blit loop inside the framebuffer keeps the canonical form. -/
theorem Blit.run_keeps_wf {d : Display} {t : Blit} {ps : List (Nat × Nat)} (h : Fb.wf d t.fb)
    (hps : ∀ p ∈ ps, p.1 < d.height ∧ p.2 < d.width) : Fb.wf d (t.run ps).fb := by
  induction ps generalizing t with
  | nil => exact h
  | cons p ps ih =>
    have hp := hps p (by simp)
    exact ih (t := t.pixel p) (Fb.set_keeps_wf h hp.1 hp.2) fun q hq => hps q (by simp [hq])

/-- Whatever the pixels, the blit loop appends `Draw` events of them and nothing else. -/
theorem Blit.run_ev_append (t : Blit) (ps : List (Nat × Nat)) :
    ∃ es, (t.run ps).ev = t.ev ++ es ∧ ∀ e ∈ es, ∃ p ∈ ps, ∃ b, e = .draw p.1 p.2 b := by
  induction ps generalizing t with
  | nil => exact ⟨[], by simp, by simp⟩
  | cons p ps ih =>
    obtain ⟨es, he, hes⟩ := ih (t.pixel p)
    refine ⟨.draw p.1 p.2 (!Fb.get t.fb p.1 p.2) :: es, ?_, fun e h => ?_⟩
    · rw [Blit.run_cons, he]; simp [Blit.pixel]
    · rcases List.mem_cons.1 h with h | h
      · exact ⟨p, by simp, _, h⟩
      · obtain ⟨q, hq, b, hb⟩ := hes e h
        exact ⟨q, by simp [hq], b, hb⟩

/-! ### The pixels of a sprite -/

theorem display_width_ge (d : Display) : 8 ≤ d.width := by cases d <;> decide

theorem display_height_ge (d : Display) : 15 ≤ d.height := by cases d <;> decide

theorem mem_spriteRowPixels {d : Display} {x0 row : Nat} {b : Byte} {p : Nat × Nat} :
    p ∈ spriteRowPixels d x0 row b ↔ ∃ k, k < 8 ∧ spriteBit b k = true ∧ p = (row, (x0 + k) % d.width) := by
  simp only [spriteRowPixels, List.mem_map, List.mem_filter, List.mem_range]
  constructor
  · rintro ⟨k, ⟨h1, h2⟩, rfl⟩; exact ⟨k, h1, h2, rfl⟩
  · rintro ⟨k, h1, h2, rfl⟩; exact ⟨k, ⟨h1, h2⟩, rfl⟩

/-- A pixel is drawn when some row and some bit of the sprite, taken modulo the dimensions, land on it
(spec/43_display.md R180, R182). -/
theorem mem_spritePixels {d : Display} {x0 y0 r : Nat} {bs : List Byte} {p : Nat × Nat} :
    p ∈ spritePixels d x0 y0 r bs ↔ ∃ j, ∃ h : j < bs.length, ∃ k, k < 8 ∧ spriteBit bs[j] k = true ∧
      p = ((y0 + (r + j)) % d.height, (x0 + k) % d.width) := by
  induction bs generalizing r with
  | nil => simp [spritePixels]
  | cons b bs ih =>
    rw [spritePixels, List.mem_append, mem_spriteRowPixels, ih]
    constructor
    · rintro (⟨k, hk, hb, rfl⟩ | ⟨j, hj, k, hk, hb, rfl⟩)
      · exact ⟨0, by simp, k, hk, by simpa using hb, by simp⟩
      · exact ⟨j + 1, by simpa using hj, k, hk, by simpa using hb, by simp; congr 1; omega⟩
    · rintro ⟨j, hj, k, hk, hb, rfl⟩
      cases j with
      | zero => exact .inl ⟨k, hk, by simpa using hb, by simp⟩
      | succ j => exact .inr ⟨j, by simpa using hj, k, hk, by simpa using hb, by simp; congr 1; omega⟩

theorem spritePixels_inside {d : Display} {x0 y0 r : Nat} {bs : List Byte} :
    ∀ p ∈ spritePixels d x0 y0 r bs, p.1 < d.height ∧ p.2 < d.width := by
  intro p hp
  obtain ⟨j, hj, k, hk, -, rfl⟩ := mem_spritePixels.1 hp
  have hw := display_width_ge d
  have hh := display_height_ge d
  exact ⟨Nat.mod_lt _ (by omega), Nat.mod_lt _ (by omega)⟩

/-- Two offsets less than the modulus apart that wrap to the same value are equal. -/
theorem wrap_injective {m a i j : Nat} (hi : i < m) (hj : j < m) (h : (a + i) % m = (a + j) % m) : i = j := by
  have := Nat.ModEq.add_left_cancel' a (show a + i ≡ a + j [MOD m] from h)
  rwa [Nat.ModEq, Nat.mod_eq_of_lt hi, Nat.mod_eq_of_lt hj] at this

theorem spriteRowPixels_nodup (d : Display) (x0 row : Nat) (b : Byte) : (spriteRowPixels d x0 row b).Nodup := by
  unfold spriteRowPixels
  refine List.Nodup.map_on ?_ (List.nodup_range.filter _)
  intro i hi j hj h
  have hw := display_width_ge d
  have hi := (List.mem_range.1 (List.mem_filter.1 hi).1)
  have hj := (List.mem_range.1 (List.mem_filter.1 hj).1)
  exact wrap_injective (by omega) (by omega) (Prod.ext_iff.1 h).2

/-- The pixels of a sprite of at most 15 rows are distinct: a sprite cannot collide with itself (spec/43_display.md R182,
corner case f). -/
theorem spritePixels_nodup (d : Display) (x0 y0 r : Nat) (bs : List Byte) (h : r + bs.length ≤ 15) :
    (spritePixels d x0 y0 r bs).Nodup := by
  induction bs generalizing r with
  | nil => simp [spritePixels]
  | cons b bs ih =>
    simp only [List.length_cons] at h
    rw [spritePixels]
    refine List.nodup_append.2 ⟨spriteRowPixels_nodup d x0 _ b, ih (r + 1) (by omega), ?_⟩
    intro p hp q hq hpq
    subst hpq
    obtain ⟨k, -, -, rfl⟩ := mem_spriteRowPixels.1 hp
    obtain ⟨j, hj, k', -, -, hq⟩ := mem_spritePixels.1 hq
    have hh := display_height_ge d
    have := wrap_injective (m := d.height) (a := y0) (i := r) (j := r + 1 + j) (by omega) (by omega) (Prod.ext_iff.1 hq).1
    omega

@[simp] theorem State.readBytes_length (s : State) (a n : Nat) : (s.readBytes a n).length = n := by
  simp [State.readBytes]

@[simp] theorem State.readBytes_getElem (s : State) (a n j : Nat) (h : j < (s.readBytes a n).length) :
    (s.readBytes a n)[j] = s.readByte (a + j) := by
  simp [State.readBytes]

theorem State.drwPixels_nodup (s : State) (x y : RegIdx) (n : Nibble) : (s.drwPixels x y n).Nodup :=
  spritePixels_nodup _ _ _ _ _ (by simp; have := n.isLt; omega)

theorem State.drwPixels_inside (s : State) (x y : RegIdx) (n : Nibble) :
    ∀ p ∈ s.drwPixels x y n, p.1 < s.cfg.display.height ∧ p.2 < s.cfg.display.width :=
  spritePixels_inside

/-- The pixels a sprite bit lands on are exactly those that the blit visits. -/
theorem spriteCovers_iff (s : State) (x y : RegIdx) (n : Nibble) (row col : Nat) :
    spriteCovers s x y n row col ↔ (row, col) ∈ s.drwPixels x y n := by
  rw [State.drwPixels, mem_spritePixels]
  constructor
  · rintro ⟨r, hr, p, hp, hb, h1, h2⟩
    refine ⟨r, by simpa using hr, p, hp, by simpa [spriteBit] using hb, ?_⟩
    rw [h1, h2, Nat.zero_add]
  · rintro ⟨r, hr, p, hp, hb, e⟩
    cases e
    exact ⟨r, by simpa using hr, p, hp, by simpa [spriteBit] using hb, by rw [Nat.zero_add], rfl⟩

end Sys2Proof.Machine
end

