-- ==== Sys2Proof/Laws/Memory.lean ====
section
/-! SUPPORT. Memory: a read after a write, and the canonical form. -/

namespace Sys2Proof.Machine

/-! ### Reading after writing -/

theorem Memory.read_erase (font : Font) (m : List Host.Cell) (a k : Nat) :
    Memory.read font (Memory.erase m a) k = if k = a then Memory.background font a else Memory.read font m k := by
  induction m with
  | nil => by_cases h : k = a <;> simp [Memory.erase, Memory.read, h]
  | cons c rest ih =>
    rw [Memory.erase] at ih ⊢
    by_cases hc : c.1 = a
    · rw [List.filter_cons_of_neg (by simp [hc]), ih]
      by_cases h : k = a
      · simp [h]
      · have : c.1 ≠ k := fun e => h (e ▸ hc)
        simp [h, Memory.read, this]
    · rw [List.filter_cons_of_pos (by simp [hc])]
      by_cases h : k = a
      · subst h; simpa [Memory.read, hc] using ih
      · by_cases hk : c.1 = k <;> simp [Memory.read, hk, h, ih]

theorem Memory.read_insert (font : Font) (m : List Host.Cell) (a : Nat) (b : Byte) (k : Nat) (h : ∀ c ∈ m, c.1 ≠ a) :
    Memory.read font (Memory.insert m a b) k = if k = a then b else Memory.read font m k := by
  induction m with
  | nil => simp [Memory.insert, Memory.read, eq_comm (a := a)]
  | cons c rest ih =>
    have hc : c.1 ≠ a := h c (by simp)
    have ih := ih fun d hd => h d (by simp [hd])
    unfold Memory.insert
    split
    · simp only [Memory.read, eq_comm (a := a)]
    · by_cases hk : k = a
      · subst hk; simpa [Memory.read, hc] using ih
      · by_cases hck : c.1 = k <;> simp [Memory.read, hck, hk, ih]

theorem Memory.erase_ne (m : List Host.Cell) (a : Nat) : ∀ c ∈ Memory.erase m a, c.1 ≠ a := by
  simp [Memory.erase]

/-- A read after a write: the byte written at its own address, the old byte everywhere else. -/
theorem Memory.read_write (font : Font) (m : List Host.Cell) (a : Nat) (b : Byte) (k : Nat) :
    Memory.read font (Memory.write font m a b) k = if k = a then b else Memory.read font m k := by
  unfold Memory.write
  split
  · rename_i hb; rw [Memory.read_erase, hb]
  · rw [Memory.read_insert _ _ _ _ _ (Memory.erase_ne m a), Memory.read_erase]
    by_cases h : k = a <;> simp [h]

/-! ### The canonical form is kept -/

theorem Memory.mem_insert {m : List Host.Cell} {a : Nat} {b : Byte} {c : Host.Cell} (h : c ∈ Memory.insert m a b) :
    c = (a, b) ∨ c ∈ m := by
  induction m with
  | nil => simpa [Memory.insert] using h
  | cons d rest ih =>
    unfold Memory.insert at h
    split at h
    · simpa using h
    · rcases List.mem_cons.1 h with h | h
      · simp [h]
      · rcases ih h with h | h <;> simp [h]

theorem Memory.sorted_insert {m : List Host.Cell} {a : Nat} {b : Byte} (hm : m.Pairwise fun c d => c.1 < d.1)
    (ha : ∀ c ∈ m, c.1 ≠ a) : (Memory.insert m a b).Pairwise fun c d => c.1 < d.1 := by
  induction m with
  | nil => simp [Memory.insert]
  | cons d rest ih =>
    have hd := List.pairwise_cons.1 hm
    unfold Memory.insert
    split
    · rename_i hlt
      refine List.pairwise_cons.2 ⟨fun e he => ?_, hm⟩
      rcases List.mem_cons.1 he with he | he
      · exact he ▸ hlt
      · exact Nat.lt_trans hlt (hd.1 e he)
    · rename_i hlt
      have hne : d.1 ≠ a := ha d (by simp)
      refine List.pairwise_cons.2 ⟨fun e he => ?_, ih hd.2 fun c hc => ha c (by simp [hc])⟩
      rcases Memory.mem_insert he with he | he
      · subst he; show d.1 < a; omega
      · exact hd.1 e he

/-- A write inside memory keeps the canonical form. -/
theorem Memory.write_keeps_wf {font : Font} {m : List Host.Cell} {a : Nat} {b : Byte} (hm : Memory.wf font m)
    (ha : a < memSize) : Memory.wf font (Memory.write font m a b) := by
  have hs : (Memory.erase m a).Pairwise fun c d => c.1 < d.1 := hm.1.filter _
  have he : ∀ c ∈ Memory.erase m a, c ∈ m := fun c hc => (List.mem_filter.1 hc).1
  unfold Memory.write
  split
  · exact ⟨hs, fun c hc => hm.2 c (he c hc)⟩
  · rename_i hb
    refine ⟨Memory.sorted_insert hs (Memory.erase_ne m a), fun c hc => ?_⟩
    rcases Memory.mem_insert hc with hc | hc
    · subst hc; exact ⟨ha, hb⟩
    · exact hm.2 c (he c hc)

/-! ### On the state -/

@[simp] theorem State.readByte_writeByte (s : State) (a : Nat) (b : Byte) (k : Nat) :
    (s.writeByte a b).readByte k = if k = a then b else s.readByte k := by
  simp [State.readByte, Memory.read_write]

/-- A read after a block of bytes was written: inside the block the byte at its offset, outside it the old byte. -/
theorem State.readByte_writeBytes (s : State) (a : Nat) (bs : List Byte) (k : Nat) :
    (s.writeBytes a bs).readByte k = if h : a ≤ k ∧ k < a + bs.length then bs[k - a] else s.readByte k := by
  induction bs generalizing s a with
  | nil =>
    rw [dif_neg (by simp)]
    rfl
  | cons b bs ih =>
    rw [State.writeBytes, ih, State.readByte_writeByte]
    by_cases hk : k = a
    · subst hk; simp
    · by_cases hin : a + 1 ≤ k ∧ k < a + 1 + bs.length
      · have hin' : a ≤ k ∧ k < a + (b :: bs).length := by simp; omega
        have hidx : k - a = (k - (a + 1)) + 1 := by omega
        simp only [hin, hin', and_self, dite_true, hidx, List.getElem_cons_succ]
      · have hout : ¬ (a ≤ k ∧ k < a + (b :: bs).length) := by simp; omega
        rw [dif_neg hin, dif_neg hout, if_neg hk]

/-- Bytes outside a written block read as before. -/
theorem State.readByte_writeBytes_outside (s : State) (a : Nat) (bs : List Byte) (k : Nat)
    (h : k < a ∨ a + bs.length ≤ k) : (s.writeBytes a bs).readByte k = s.readByte k := by
  rw [State.readByte_writeBytes, dif_neg]; omega

/-- The `j`-th byte of a written block. -/
theorem State.readByte_writeBytes_inside (s : State) (a : Nat) (bs : List Byte) (j : Nat) (h : j < bs.length) :
    (s.writeBytes a bs).readByte (a + j) = bs[j] := by
  rw [State.readByte_writeBytes, dif_pos (by omega)]
  simp

/-- A block written inside memory keeps the canonical form. -/
theorem State.writeBytes_keeps_wf {s : State} {a : Nat} {bs : List Byte} (hm : Memory.wf s.cfg.font s.MEM)
    (ha : a + bs.length ≤ memSize) : Memory.wf s.cfg.font (s.writeBytes a bs).MEM := by
  induction bs generalizing s a with
  | nil => exact hm
  | cons b bs ih =>
    simp only [List.length_cons] at ha
    exact ih (s := s.writeByte a b) (Memory.write_keeps_wf hm (by omega)) (by omega)

/-- Two lists in canonical form that read alike everywhere are the same list. -/
theorem Memory.wf_ext {font : Font} {m m' : List Host.Cell} (hm : Memory.wf font m) (hm' : Memory.wf font m')
    (h : ∀ k, Memory.read font m k = Memory.read font m' k) : m = m' := by
  have hread : ∀ {n : List Host.Cell}, n.Pairwise (fun c d => c.1 < d.1) → ∀ c ∈ n, Memory.read font n c.1 = c.2 := by
    intro n hn
    induction n with
    | nil => simp
    | cons d rest ih =>
      have hd := List.pairwise_cons.1 hn
      intro c hc
      rcases List.mem_cons.1 hc with hc | hc
      · simp [hc, Memory.read]
      · have : d.1 ≠ c.1 := Nat.ne_of_lt (hd.1 c hc)
        simpa [Memory.read, this] using ih hd.2 c hc
  have habsent : ∀ {n : List Host.Cell} {k : Nat}, (∀ c ∈ n, c.1 ≠ k) → Memory.read font n k = Memory.background font k := by
    intro n k hn
    induction n with
    | nil => rfl
    | cons d rest ih =>
      have : d.1 ≠ k := hn d (by simp)
      simpa [Memory.read, this] using ih fun c hc => hn c (by simp [hc])
  have hsub : ∀ {n n' : List Host.Cell}, Memory.wf font n → Memory.wf font n' →
      (∀ k, Memory.read font n k = Memory.read font n' k) → ∀ c ∈ n, c ∈ n' := by
    intro n n' hn hn' hnn c hc
    by_contra hcon
    have hv : Memory.read font n' c.1 = c.2 := (hnn c.1).symm.trans (hread hn.1 c hc)
    by_cases hk : ∃ d ∈ n', d.1 = c.1
    · obtain ⟨d, hd, hdc⟩ := hk
      have : d.2 = c.2 := by rw [← hread hn'.1 d hd, hdc, hv]
      exact hcon (Prod.ext hdc this ▸ hd)
    · have : Memory.read font n' c.1 = Memory.background font c.1 := habsent fun d hd e => hk ⟨d, hd, e⟩
      exact (hn.2 c hc).2 (hv.symm.trans this)
  have hirrefl : ∀ (n : List Host.Cell), n.Pairwise (fun c d => c.1 < d.1) → n.Nodup := fun n hn =>
    hn.imp fun h e => absurd (e ▸ h) (Nat.lt_irrefl _)
  refine List.Perm.eq_of_pairwise (le := fun c d : Host.Cell => c.1 < d.1) ?_ hm.1 hm'.1
    ((List.perm_ext_iff_of_nodup (hirrefl _ hm.1) (hirrefl _ hm'.1)).2 fun c =>
      ⟨hsub hm hm' h c, hsub hm' hm (fun k => (h k).symm) c⟩)
  intro c d _ _ h1 h2
  omega

/-- Storing bytes changes `MEM` alone. -/
theorem State.writeBytes_eq (s : State) (a : Nat) (bs : List Byte) :
    s.writeBytes a bs = { s with MEM := (s.writeBytes a bs).MEM } := by
  induction bs generalizing s a with
  | nil => rfl
  | cons b bs ih => rw [State.writeBytes, ih]; rfl

/-- Storing one block after another at the next address is storing their concatenation. -/
theorem State.writeBytes_append (s : State) (a : Nat) (bs cs : List Byte) :
    s.writeBytes a (bs ++ cs) = (s.writeBytes a bs).writeBytes (a + bs.length) cs := by
  induction bs generalizing s a with
  | nil => rfl
  | cons b bs ih =>
    rw [List.cons_append, State.writeBytes, ih, State.writeBytes, List.length_cons]
    congr 1
    omega

/-- What a store leaves in `MEM` depends on `MEM` and the font alone. -/
theorem State.writeBytes_MEM_congr {s t : State} (hm : s.MEM = t.MEM) (hc : s.cfg = t.cfg) (a : Nat) (bs : List Byte) :
    (s.writeBytes a bs).MEM = (t.writeBytes a bs).MEM := by
  induction bs generalizing s t a with
  | nil => exact hm
  | cons b bs ih => exact ih (by simp [State.writeByte, hm, hc]) (by simp [State.writeByte, hc]) _

/-! ### The reset contents -/

/-- The first five bytes of every font are the source's glyph 0 (spec/00_scope.md R7). -/
theorem Config.font_glyph0 (cfg : Config) (a : Nat) (h : a < 5) : cfg.font[a] = glyph0[a] := by
  simp only [Config.font]
  exact Vector.getElem_append_left h

/-- The bytes after glyph 0 are the parameter's (spec/00_scope.md R7). -/
theorem Config.font_rest (cfg : Config) (j : Nat) (h : j < 75) : cfg.font[5 + j] = cfg.glyphs1toF[j] := by
  simp only [Config.font]
  rw [Vector.getElem_append_right (by omega) (by omega)]
  simp

end Sys2Proof.Machine
end

