-- ==== Sys2Proof/Laws/Registers.lean ====
section
/-! SUPPORT. Registers: a read after a write. -/

namespace Sys2Proof.Machine

/-- `V[x]` after `V[x'] <- b`. -/
@[simp] theorem State.reg_setReg (s : State) (x : RegIdx) (b : Byte) (r : RegIdx) :
    (s.setReg x b).reg r = if r = x then b else s.reg r := by
  simp only [State.reg, State.setReg, Vector.getElem_set]
  by_cases h : r = x
  · simp [h]
  · have : x.toNat ≠ r.toNat := fun e => h (BitVec.eq_of_toNat_eq e.symm)
    simp [h, this]

@[simp] theorem State.reg_setFlag (s : State) (c : Bool) (r : RegIdx) :
    (s.setFlag c).reg r = if r = flagReg then flagByte c else s.reg r := by
  rw [State.setFlag, State.reg_setReg]

/-- The flag is written last (spec/41_load_alu.md R140). -/
@[simp] theorem State.reg_setResultAndFlag (s : State) (x : RegIdx) (b : Byte) (c : Bool) (r : RegIdx) :
    (s.setResultAndFlag x b c).reg r = if r = flagReg then flagByte c else if r = x then b else s.reg r := by
  simp [State.setResultAndFlag]

/-- Registers are read from `V` alone. -/
theorem State.reg_congr {s t : State} (h : t.V = s.V) (r : RegIdx) : t.reg r = s.reg r := by
  simp only [State.reg, h]

theorem State.reg_loadRegsUpTo (s : State) (x r : RegIdx) :
    (s.loadRegsUpTo x).reg r = if r.toNat ≤ x.toNat then s.readByte (s.I + r.toNat) else s.reg r := by
  simp [State.loadRegsUpTo, State.reg]

@[simp] theorem State.regsUpTo_length (s : State) (x : RegIdx) : (s.regsUpTo x).length = x.toNat + 1 := by
  have := x.isLt
  simp [State.regsUpTo]; omega

@[simp] theorem State.regsUpTo_getElem (s : State) (x : RegIdx) (j : Nat) (h : j < (s.regsUpTo x).length) :
    (s.regsUpTo x)[j] = s.V[j]'(by have := x.isLt; simp at h; omega) := by
  simp [State.regsUpTo]

@[simp] theorem flagByte_toNat (c : Bool) : (flagByte c).toNat = if c then 1 else 0 := by cases c <;> rfl

@[simp] theorem decimalDigits_length (v : Byte) : (decimalDigits v).length = 3 := rfl

/-- Memory is read from `MEM` and the font alone. -/
theorem State.readByte_congr {s t : State} (hm : t.MEM = s.MEM) (hc : t.cfg = s.cfg) (a : Nat) :
    t.readByte a = s.readByte a := by simp only [State.readByte, hm, hc]

/-- Pixels are read from `FB` alone. -/
theorem State.pixel_congr {s t : State} (h : t.FB = s.FB) (r c : Nat) : t.pixel r c = s.pixel r c := by
  simp only [State.pixel, h]

/-- A byte is never past the top of memory unless its range check says so (spec/20_memory.md R69). -/
theorem State.pastTop_eq_true {s : State} {len : Nat} : s.pastTop len = true ↔ 0 < len ∧ 4096 < s.I + len := by
  simp [State.pastTop, memSize]

theorem State.pastTop_eq_false {s : State} {len : Nat} : s.pastTop len = false ↔ len = 0 ∨ s.I + len ≤ 4096 := by
  simp [State.pastTop, memSize]; omega

end Sys2Proof.Machine
end

