-- ==== Sys2Proof/Laws/Exec.lean ====
section
/-! SUPPORT. What the shared operations and the execute phase can do, said once. -/

namespace Sys2Proof.Machine

/-! ### The call stack -/

theorem State.push_of_lt {s : State} (h : s.SP.val < stackCap) (w : Nat) :
    s.push w = some { s with STACK := s.STACK.set s.SP.val w h, SP := ⟨s.SP.val + 1, Nat.succ_lt_succ h⟩ } :=
  dif_pos h

theorem State.push_full {s : State} (h : s.SP.val = 16) (w : Nat) : s.push w = none :=
  dif_neg (show ¬ s.SP.val < 16 by omega)

theorem State.pop_of_pos {s : State} (h : 0 < s.SP.val) :
    s.pop = some (s.STACK[s.SP.val - 1]'(by omega), { s with SP := ⟨s.SP.val - 1, by omega⟩ }) :=
  dif_pos h

theorem State.pop_empty {s : State} (h : s.SP.val = 0) : s.pop = none :=
  dif_neg (show ¬ 0 < s.SP.val by omega)

/-! ### Operands -/

@[simp] theorem addrOperand_eq (nnn : Addr12) : addrOperand nnn = nnn.toNat := rfl

@[simp] theorem byteOperand_eq (b : Byte) : byteOperand b = b.toNat := rfl

/-- An address operand fits every legal width. -/
theorem addrOperand_lt (nnn : Addr12) : addrOperand nnn < 4096 := nnn.isLt

/-- `nnn + V0` is at most 0x10FE (spec/40_flow.md R128). -/
theorem State.indexedTarget_le (s : State) (nnn : Addr12) : s.indexedTarget nnn ≤ 0x10FE := by
  have h1 := nnn.isLt
  have h2 := (s.reg 0).isLt
  simp only [State.indexedTarget, addrOperand, byteOperand]
  omega

/-- `ADD I, Vx` leaves a value of `I_WIDTH` bits (spec/42_index_memory.md R162). -/
theorem State.indexPlus_lt (s : State) (x : RegIdx) : s.indexPlus x < 2 ^ s.cfg.iWidth.val :=
  Nat.mod_lt _ (Nat.two_pow_pos _)

/-- A font address is at most 1275 (spec/42_index_memory.md R163). -/
theorem State.glyphAddr_le (s : State) (x : RegIdx) : s.glyphAddr x ≤ 1275 := by
  have h := (s.reg x).isLt
  simp only [State.glyphAddr, byteOperand]
  omega

/-- Every legal `PC_WIDTH` holds every value that a rule gives `pc` (spec/10_state.md R24). -/
theorem Config.pcWidth_ge (cfg : Config) : 8192 ≤ 2 ^ cfg.pcWidth.val :=
  Nat.pow_le_pow_right (n := 2) (by decide) cfg.pcWidth.property

/-- Every legal `I_WIDTH` holds every memory address (spec/10_state.md R28). -/
theorem Config.iWidth_ge (cfg : Config) : 4096 ≤ 2 ^ cfg.iWidth.val :=
  Nat.pow_le_pow_right (n := 2) (by decide) cfg.iWidth.property

/-! ### The opcode of a fault record -/

theorem encA_toNat (h : Nibble) (nnn : Addr12) : (encA h nnn).toNat = 4096 * h.toNat + nnn.toNat := by
  have e : (encA h nnn).toNat = h.toNat <<< 12 ||| nnn.toNat := BitVec.toNat_append h nnn
  rw [e, ← Nat.shiftLeft_add_eq_or_of_lt nnn.isLt, Nat.shiftLeft_eq]
  omega

/-! ### The execute phase -/

/-- Nothing that an invariant of the run speaks of has changed. -/
structure QuietChange (s t : State) : Prop where
  mem : t.MEM = s.MEM
  fb : t.FB = s.FB
  ev : t.EV = s.EV
  rs : t.RS = s.RS
  fr : t.FR = s.FR
  log : t.LOG = s.LOG
  loadptr : t.LOADPTR = s.LOADPTR
  cfg : t.cfg = s.cfg
  turns : t.env.turns = s.env.turns

/-- Everything an instruction can do to memory, screen, run state and streams. -/
inductive ExecShape (i : Instr) (s : State) : State → Prop
  /-- registers, `pc`, `I`, stack, timers and draws only -/
  | quiet (t : State) (hq : QuietChange s t) (hf : ¬ faultsIn i s) : ExecShape i s t
  /-- a fault is taken -/
  | fault (r : FaultRecord) (hf : faultsIn i s) : ExecShape i s (s.enterFault r)
  /-- bytes are stored, all of them inside memory -/
  | store (bs : List Byte) (hin : s.I + bs.length ≤ memSize) (hf : ¬ faultsIn i s) :
      ExecShape i s (s.writeBytes s.I bs)
  /-- a sprite is drawn -/
  | draw (x y : RegIdx) (n : Nibble) (hi : i = .drw x y n) (hf : ¬ faultsIn i s) :
      ExecShape i s (s.blit (s.drwPixels x y n))
  /-- the screen is cleared -/
  | clear (hi : i = .cls) : ExecShape i s (s.clearFb.emit .clear)
  /-- the run halts -/
  | halt (hi : i = .halt) : ExecShape i s ((s.emit .shutdown).setRS .halted)
  /-- a key wait begins -/
  | wait (x : RegIdx) (hi : i = .ldVxK x) : ExecShape i s (s.setRS (.waitKey x))

theorem QuietChange.skip (s : State) (c : Bool) : QuietChange s (s.skipIf c) := by
  constructor <;> simp

theorem QuietChange.keypad (s : State) (c : Bool) : QuietChange s (s.afterKeypadQuery.skipIf c) := by
  constructor <;> simp

theorem QuietChange.loadRegs (s : State) (x : RegIdx) : QuietChange s (s.loadRegsUpTo x) := by
  constructor <;> simp only [State.loadRegsUpTo]

/-- Every instruction answers a next state, and it is one of these. -/
theorem exec_shape (i : Instr) (s : State) : ∃ t, exec i s = .next t ∧ ExecShape i s t := by
  cases i with
  | halt => exact ⟨_, rfl, .halt rfl⟩
  | cls => exact ⟨_, rfl, .clear rfl⟩
  | ret =>
    by_cases h : s.SP.val = 0
    · exact ⟨_, by rw [exec, execRet, State.pop_empty h]; rfl, .fault _ (Fin.ext h)⟩
    · refine ⟨_, by rw [exec, execRet, State.pop_of_pos (by omega)], .quiet _ (by constructor <;> rfl) ?_⟩
      exact fun e => h (congrArg Fin.val e)
  | jp nnn => exact ⟨_, rfl, .quiet _ (by constructor <;> rfl) id⟩
  | call nnn =>
    by_cases h : s.SP.val = 16
    · exact ⟨_, by rw [exec, execCall, State.push_full h]; rfl, .fault _ (Fin.ext h)⟩
    · refine ⟨_, by rw [exec, execCall, State.push_of_lt (show s.SP.val < 16 by omega)],
        .quiet _ (by constructor <;> rfl) ?_⟩
      exact fun e => h (congrArg Fin.val e)
  | seImm x kk => exact ⟨_, rfl, .quiet _ (.skip _ _) id⟩
  | sneImm x kk => exact ⟨_, rfl, .quiet _ (.skip _ _) id⟩
  | seReg x y => exact ⟨_, rfl, .quiet _ (.skip _ _) id⟩
  | ldImm x kk => exact ⟨_, rfl, .quiet _ (by constructor <;> rfl) id⟩
  | addImm x kk => exact ⟨_, rfl, .quiet _ (by constructor <;> rfl) id⟩
  | ldReg x y => exact ⟨_, rfl, .quiet _ (by constructor <;> rfl) id⟩
  | orReg x y => exact ⟨_, rfl, .quiet _ (by constructor <;> rfl) id⟩
  | andReg x y => exact ⟨_, rfl, .quiet _ (by constructor <;> rfl) id⟩
  | xorReg x y => exact ⟨_, rfl, .quiet _ (by constructor <;> rfl) id⟩
  | addReg x y => exact ⟨_, rfl, .quiet _ (by constructor <;> rfl) id⟩
  | subReg x y => exact ⟨_, rfl, .quiet _ (by constructor <;> rfl) id⟩
  | shr x y => exact ⟨_, rfl, .quiet _ (by constructor <;> rfl) id⟩
  | subnReg x y => exact ⟨_, rfl, .quiet _ (by constructor <;> rfl) id⟩
  | shl x y => exact ⟨_, rfl, .quiet _ (by constructor <;> rfl) id⟩
  | sneReg x y => exact ⟨_, rfl, .quiet _ (.skip _ _) id⟩
  | ldI nnn => exact ⟨_, rfl, .quiet _ (by constructor <;> rfl) id⟩
  | jpV0 nnn => exact ⟨_, rfl, .quiet _ (by constructor <;> rfl) id⟩
  | rnd x kk => exact ⟨_, rfl, .quiet _ (by constructor <;> simp) id⟩
  | drw x y n =>
    by_cases h : s.pastTop n.toNat
    · exact ⟨_, by rw [exec, execDrw, if_pos h]; rfl, .fault _ (State.pastTop_eq_true.1 h)⟩
    · exact ⟨_, by rw [exec, execDrw, if_neg h], .draw x y n rfl fun hf => h (State.pastTop_eq_true.2 hf)⟩
  | skp x => exact ⟨_, rfl, .quiet _ (.keypad _ _) id⟩
  | sknp x => exact ⟨_, rfl, .quiet _ (.keypad _ _) id⟩
  | ldVxDT x => exact ⟨_, rfl, .quiet _ (by constructor <;> rfl) id⟩
  | ldVxK x => exact ⟨_, rfl, .wait x rfl⟩
  | ldDTVx x => exact ⟨_, rfl, .quiet _ (by constructor <;> rfl) id⟩
  | ldSTVx x => exact ⟨_, rfl, .quiet _ (by constructor <;> rfl) id⟩
  | addIVx x => exact ⟨_, rfl, .quiet _ (by constructor <;> rfl) id⟩
  | ldF x => exact ⟨_, rfl, .quiet _ (by constructor <;> rfl) id⟩
  | ldB x =>
    by_cases h : s.pastTop 3
    · have h' := State.pastTop_eq_true.1 h
      exact ⟨_, by rw [exec, execLdB, if_pos h]; rfl, .fault _ (show 4093 < s.I by omega)⟩
    · have h' := State.pastTop_eq_false.1 (Bool.eq_false_iff.2 h)
      refine ⟨_, by rw [exec, execLdB, if_neg h], .store _ ?_ (show ¬ 4093 < s.I by omega)⟩
      show s.I + 3 ≤ 4096
      omega
  | storeRegs x =>
    by_cases h : s.pastTop (x.toNat + 1)
    · have h' := State.pastTop_eq_true.1 h
      exact ⟨_, by rw [exec, execStoreRegs, if_pos h]; rfl, .fault _ (show 4095 < s.I + x.toNat by omega)⟩
    · have h' := State.pastTop_eq_false.1 (Bool.eq_false_iff.2 h)
      refine ⟨_, by rw [exec, execStoreRegs, if_neg h], .store _ ?_ (show ¬ 4095 < s.I + x.toNat by omega)⟩
      rw [State.regsUpTo_length]
      show _ ≤ 4096
      omega
  | loadRegs x =>
    by_cases h : s.pastTop (x.toNat + 1)
    · have h' := State.pastTop_eq_true.1 h
      exact ⟨_, by rw [exec, execLoadRegs, if_pos h]; rfl, .fault _ (show 4095 < s.I + x.toNat by omega)⟩
    · have h' := State.pastTop_eq_false.1 (Bool.eq_false_iff.2 h)
      exact ⟨s.loadRegsUpTo x, by rw [exec, execLoadRegs, if_neg h], .quiet _ (.loadRegs s x)
        (show ¬ 4095 < s.I + x.toNat by omega)⟩

/-- What the next state of an instruction can be. -/
theorem exec_cases {i : Instr} {s t : State} (h : exec i s = .next t) : ExecShape i s t := by
  obtain ⟨u, hu, hs⟩ := exec_shape i s
  rw [hu] at h
  cases h
  exact hs

/-- A draw whose sprite lies in memory, or has no row, is the blit (spec/43_display.md R182). -/
theorem execDrw_inside {s : State} {n : Nibble} (h : n = 0#4 ∨ s.I + n.toNat ≤ 4096) (x y : RegIdx) :
    execDrw x y n s = .next (s.blit (s.drwPixels x y n)) := by
  rw [execDrw, if_neg]
  rw [State.pastTop_eq_true]
  rcases h with rfl | h
  · simp
  · omega

end Sys2Proof.Machine
end

