-- ==== Sys2Proof/Laws/PerInstr.lean ====
section
/-! SUPPORT. Laws of instructions as syntax, one lemma per constructor. -/

namespace Sys2Proof.Laws

/-! ### The mask of a format keeps its literal digits and clears its fields (spec/30_encoding.md R92) -/

theorem and_append {m n : Nat} (a c : BitVec m) (b d : BitVec n) : (a ++ b) &&& (c ++ d) = (a &&& c) ++ (b &&& d) := by
  ext i hi
  simp only [BitVec.getElem_and, BitVec.getElem_append]
  split <;> simp

theorem mask_encA (h : Nibble) (nnn : Addr12) : encA h nnn &&& 0xF000#16 = encA h 0#12 := by
  have : (0xF000#16 : Word) = (0xF#4 ++ 0#12 : BitVec 16) := by decide
  rw [this]
  refine (and_append h 0xF#4 nnn 0#12).trans ?_
  have h1 : h &&& 0xF#4 = h := BitVec.and_allOnes
  have h2 : nnn &&& 0#12 = 0#12 := BitVec.and_zero
  rw [h1, h2]; rfl

theorem mask_encXK (h : Nibble) (x : RegIdx) (kk : Byte) : encXK h x kk &&& 0xF000#16 = encA h 0#12 := mask_encA h _

theorem mask_encX (h : Nibble) (x : RegIdx) (kk : Byte) : encXK h x kk &&& 0xF0FF#16 = encXK h 0#4 kk := by
  have : (0xF0FF#16 : Word) = (0xF#4 ++ (0#4 ++ 0xFF#8 : BitVec 12) : BitVec 16) := by decide
  rw [this]
  refine (and_append h 0xF#4 (x ++ kk : Addr12) (0#4 ++ 0xFF#8 : BitVec 12)).trans ?_
  have h0 : (x ++ kk : Addr12) &&& (0#4 ++ 0xFF#8 : BitVec 12) = (x &&& 0#4) ++ (kk &&& 0xFF#8) := and_append x 0#4 kk 0xFF#8
  have h1 : h &&& 0xF#4 = h := BitVec.and_allOnes
  have h2 : x &&& 0#4 = 0#4 := BitVec.and_zero
  have h3 : kk &&& 0xFF#8 = kk := BitVec.and_allOnes
  rw [h0, h1, h2, h3]; rfl

theorem mask_encXY (h : Nibble) (x y : RegIdx) (n : Nibble) : encXYN h x y n &&& 0xF00F#16 = encXYN h 0#4 0#4 n := by
  have : (0xF00F#16 : Word) = (0xF#4 ++ (0#4 ++ (0#4 ++ 0xF#4 : BitVec 8) : BitVec 12) : BitVec 16) := by decide
  rw [this]
  refine (and_append h 0xF#4 (x ++ (y ++ n : Byte) : Addr12) (0#4 ++ (0#4 ++ 0xF#4 : BitVec 8) : BitVec 12)).trans ?_
  have h0 : (x ++ (y ++ n : Byte) : Addr12) &&& (0#4 ++ (0#4 ++ 0xF#4 : BitVec 8) : BitVec 12) =
      (x &&& 0#4) ++ ((y ++ n : Byte) &&& (0#4 ++ 0xF#4 : BitVec 8)) := and_append x 0#4 (y ++ n : Byte) (0#4 ++ 0xF#4 : BitVec 8)
  have h0' : (y ++ n : Byte) &&& (0#4 ++ 0xF#4 : BitVec 8) = (y &&& 0#4) ++ (n &&& 0xF#4) := and_append y 0#4 n 0xF#4
  have h1 : h &&& 0xF#4 = h := BitVec.and_allOnes
  have h2 : x &&& 0#4 = 0#4 := BitVec.and_zero
  have h2' : y &&& 0#4 = 0#4 := BitVec.and_zero
  have h3 : n &&& 0xF#4 = n := BitVec.and_allOnes
  rw [h0, h0', h1, h2, h2', h3]; rfl

/-! ### The opcode of an instruction selects the row that bears its mnemonic (spec/30_encoding.md R93) -/

/-- Some row of the opcode table bears the instruction's mnemonic and is selected by its opcode. -/
def EncodeSelectsRow.Statement (i : Instr) : Prop :=
  ∃ row ∈ opcodeTable, row.mnemonic = i.mnemonic ∧ row.selects (encode i)

theorem EncodeSelectsRow.halt : Statement (.halt) :=
  ⟨⟨"HALT", 0x0000#16, 0xFFFF#16⟩, by simp [opcodeTable, rowsW, rowsA, rowsXK, rowsXY, rowsX], rfl, by decide⟩

theorem EncodeSelectsRow.cls : Statement (.cls) :=
  ⟨⟨"CLS", 0x00E0#16, 0xFFFF#16⟩, by simp [opcodeTable, rowsW, rowsA, rowsXK, rowsXY, rowsX], rfl, by decide⟩

theorem EncodeSelectsRow.ret : Statement (.ret) :=
  ⟨⟨"RET", 0x00EE#16, 0xFFFF#16⟩, by simp [opcodeTable, rowsW, rowsA, rowsXK, rowsXY, rowsX], rfl, by decide⟩

theorem EncodeSelectsRow.jp (nnn : Addr12) : Statement (.jp nnn) :=
  ⟨⟨"JP_NNN", 0x1000#16, 0xF000#16⟩, by simp [opcodeTable, rowsW, rowsA, rowsXK, rowsXY, rowsX], rfl, (mask_encA 0x1#4 nnn).trans (by decide)⟩

theorem EncodeSelectsRow.call (nnn : Addr12) : Statement (.call nnn) :=
  ⟨⟨"CALL_NNN", 0x2000#16, 0xF000#16⟩, by simp [opcodeTable, rowsW, rowsA, rowsXK, rowsXY, rowsX], rfl, (mask_encA 0x2#4 nnn).trans (by decide)⟩

theorem EncodeSelectsRow.seImm (x : RegIdx) (kk : Byte) : Statement (.seImm x kk) :=
  ⟨⟨"SE_VX_KK", 0x3000#16, 0xF000#16⟩, by simp [opcodeTable, rowsW, rowsA, rowsXK, rowsXY, rowsX], rfl, (mask_encXK 0x3#4 x kk).trans (by decide)⟩

theorem EncodeSelectsRow.sneImm (x : RegIdx) (kk : Byte) : Statement (.sneImm x kk) :=
  ⟨⟨"SNE_VX_KK", 0x4000#16, 0xF000#16⟩, by simp [opcodeTable, rowsW, rowsA, rowsXK, rowsXY, rowsX], rfl, (mask_encXK 0x4#4 x kk).trans (by decide)⟩

theorem EncodeSelectsRow.seReg (x y : RegIdx) : Statement (.seReg x y) :=
  ⟨⟨"SE_VX_VY", 0x5000#16, 0xF00F#16⟩, by simp [opcodeTable, rowsW, rowsA, rowsXK, rowsXY, rowsX], rfl, (mask_encXY 0x5#4 x y 0x0#4).trans (by decide)⟩

theorem EncodeSelectsRow.ldImm (x : RegIdx) (kk : Byte) : Statement (.ldImm x kk) :=
  ⟨⟨"LD_VX_KK", 0x6000#16, 0xF000#16⟩, by simp [opcodeTable, rowsW, rowsA, rowsXK, rowsXY, rowsX], rfl, (mask_encXK 0x6#4 x kk).trans (by decide)⟩

theorem EncodeSelectsRow.addImm (x : RegIdx) (kk : Byte) : Statement (.addImm x kk) :=
  ⟨⟨"ADD_VX_KK", 0x7000#16, 0xF000#16⟩, by simp [opcodeTable, rowsW, rowsA, rowsXK, rowsXY, rowsX], rfl, (mask_encXK 0x7#4 x kk).trans (by decide)⟩

theorem EncodeSelectsRow.ldReg (x y : RegIdx) : Statement (.ldReg x y) :=
  ⟨⟨"LD_VX_VY", 0x8000#16, 0xF00F#16⟩, by simp [opcodeTable, rowsW, rowsA, rowsXK, rowsXY, rowsX], rfl, (mask_encXY 0x8#4 x y 0x0#4).trans (by decide)⟩

theorem EncodeSelectsRow.orReg (x y : RegIdx) : Statement (.orReg x y) :=
  ⟨⟨"OR_VX_VY", 0x8001#16, 0xF00F#16⟩, by simp [opcodeTable, rowsW, rowsA, rowsXK, rowsXY, rowsX], rfl, (mask_encXY 0x8#4 x y 0x1#4).trans (by decide)⟩

theorem EncodeSelectsRow.andReg (x y : RegIdx) : Statement (.andReg x y) :=
  ⟨⟨"AND_VX_VY", 0x8002#16, 0xF00F#16⟩, by simp [opcodeTable, rowsW, rowsA, rowsXK, rowsXY, rowsX], rfl, (mask_encXY 0x8#4 x y 0x2#4).trans (by decide)⟩

theorem EncodeSelectsRow.xorReg (x y : RegIdx) : Statement (.xorReg x y) :=
  ⟨⟨"XOR_VX_VY", 0x8003#16, 0xF00F#16⟩, by simp [opcodeTable, rowsW, rowsA, rowsXK, rowsXY, rowsX], rfl, (mask_encXY 0x8#4 x y 0x3#4).trans (by decide)⟩

theorem EncodeSelectsRow.addReg (x y : RegIdx) : Statement (.addReg x y) :=
  ⟨⟨"ADD_VX_VY", 0x8004#16, 0xF00F#16⟩, by simp [opcodeTable, rowsW, rowsA, rowsXK, rowsXY, rowsX], rfl, (mask_encXY 0x8#4 x y 0x4#4).trans (by decide)⟩

theorem EncodeSelectsRow.subReg (x y : RegIdx) : Statement (.subReg x y) :=
  ⟨⟨"SUB_VX_VY", 0x8005#16, 0xF00F#16⟩, by simp [opcodeTable, rowsW, rowsA, rowsXK, rowsXY, rowsX], rfl, (mask_encXY 0x8#4 x y 0x5#4).trans (by decide)⟩

theorem EncodeSelectsRow.shr (x y : RegIdx) : Statement (.shr x y) :=
  ⟨⟨"SHR_VX", 0x8006#16, 0xF00F#16⟩, by simp [opcodeTable, rowsW, rowsA, rowsXK, rowsXY, rowsX], rfl, (mask_encXY 0x8#4 x y 0x6#4).trans (by decide)⟩

theorem EncodeSelectsRow.subnReg (x y : RegIdx) : Statement (.subnReg x y) :=
  ⟨⟨"SUBN_VX_VY", 0x8007#16, 0xF00F#16⟩, by simp [opcodeTable, rowsW, rowsA, rowsXK, rowsXY, rowsX], rfl, (mask_encXY 0x8#4 x y 0x7#4).trans (by decide)⟩

theorem EncodeSelectsRow.shl (x y : RegIdx) : Statement (.shl x y) :=
  ⟨⟨"SHL_VX", 0x800E#16, 0xF00F#16⟩, by simp [opcodeTable, rowsW, rowsA, rowsXK, rowsXY, rowsX], rfl, (mask_encXY 0x8#4 x y 0xE#4).trans (by decide)⟩

theorem EncodeSelectsRow.sneReg (x y : RegIdx) : Statement (.sneReg x y) :=
  ⟨⟨"SNE_VX_VY", 0x9000#16, 0xF00F#16⟩, by simp [opcodeTable, rowsW, rowsA, rowsXK, rowsXY, rowsX], rfl, (mask_encXY 0x9#4 x y 0x0#4).trans (by decide)⟩

theorem EncodeSelectsRow.ldI (nnn : Addr12) : Statement (.ldI nnn) :=
  ⟨⟨"LD_I_NNN", 0xA000#16, 0xF000#16⟩, by simp [opcodeTable, rowsW, rowsA, rowsXK, rowsXY, rowsX], rfl, (mask_encA 0xA#4 nnn).trans (by decide)⟩

theorem EncodeSelectsRow.jpV0 (nnn : Addr12) : Statement (.jpV0 nnn) :=
  ⟨⟨"JP_V0_NNN", 0xB000#16, 0xF000#16⟩, by simp [opcodeTable, rowsW, rowsA, rowsXK, rowsXY, rowsX], rfl, (mask_encA 0xB#4 nnn).trans (by decide)⟩

theorem EncodeSelectsRow.rnd (x : RegIdx) (kk : Byte) : Statement (.rnd x kk) :=
  ⟨⟨"RND_VX_KK", 0xC000#16, 0xF000#16⟩, by simp [opcodeTable, rowsW, rowsA, rowsXK, rowsXY, rowsX], rfl, (mask_encXK 0xC#4 x kk).trans (by decide)⟩

theorem EncodeSelectsRow.drw (x y : RegIdx) (n : Nibble) : Statement (.drw x y n) :=
  ⟨⟨"DRW_VX_VY_N", 0xD000#16, 0xF000#16⟩, by simp [opcodeTable, rowsW, rowsA, rowsXK, rowsXY, rowsX], rfl, (mask_encXK 0xD#4 x (y ++ n)).trans (by decide)⟩

theorem EncodeSelectsRow.skp (x : RegIdx) : Statement (.skp x) :=
  ⟨⟨"SKP_VX", 0xE09E#16, 0xF0FF#16⟩, by simp [opcodeTable, rowsW, rowsA, rowsXK, rowsXY, rowsX], rfl, (mask_encX 0xE#4 x 0x9E#8).trans (by decide)⟩

theorem EncodeSelectsRow.sknp (x : RegIdx) : Statement (.sknp x) :=
  ⟨⟨"SKNP_VX", 0xE0A1#16, 0xF0FF#16⟩, by simp [opcodeTable, rowsW, rowsA, rowsXK, rowsXY, rowsX], rfl, (mask_encX 0xE#4 x 0xA1#8).trans (by decide)⟩

theorem EncodeSelectsRow.ldVxDT (x : RegIdx) : Statement (.ldVxDT x) :=
  ⟨⟨"LD_VX_DT", 0xF007#16, 0xF0FF#16⟩, by simp [opcodeTable, rowsW, rowsA, rowsXK, rowsXY, rowsX], rfl, (mask_encX 0xF#4 x 0x07#8).trans (by decide)⟩

theorem EncodeSelectsRow.ldVxK (x : RegIdx) : Statement (.ldVxK x) :=
  ⟨⟨"LD_VX_K", 0xF00A#16, 0xF0FF#16⟩, by simp [opcodeTable, rowsW, rowsA, rowsXK, rowsXY, rowsX], rfl, (mask_encX 0xF#4 x 0x0A#8).trans (by decide)⟩

theorem EncodeSelectsRow.ldDTVx (x : RegIdx) : Statement (.ldDTVx x) :=
  ⟨⟨"LD_DT_VX", 0xF015#16, 0xF0FF#16⟩, by simp [opcodeTable, rowsW, rowsA, rowsXK, rowsXY, rowsX], rfl, (mask_encX 0xF#4 x 0x15#8).trans (by decide)⟩

theorem EncodeSelectsRow.ldSTVx (x : RegIdx) : Statement (.ldSTVx x) :=
  ⟨⟨"LD_ST_VX", 0xF018#16, 0xF0FF#16⟩, by simp [opcodeTable, rowsW, rowsA, rowsXK, rowsXY, rowsX], rfl, (mask_encX 0xF#4 x 0x18#8).trans (by decide)⟩

theorem EncodeSelectsRow.addIVx (x : RegIdx) : Statement (.addIVx x) :=
  ⟨⟨"ADD_I_VX", 0xF01E#16, 0xF0FF#16⟩, by simp [opcodeTable, rowsW, rowsA, rowsXK, rowsXY, rowsX], rfl, (mask_encX 0xF#4 x 0x1E#8).trans (by decide)⟩

theorem EncodeSelectsRow.ldF (x : RegIdx) : Statement (.ldF x) :=
  ⟨⟨"LD_F_VX", 0xF029#16, 0xF0FF#16⟩, by simp [opcodeTable, rowsW, rowsA, rowsXK, rowsXY, rowsX], rfl, (mask_encX 0xF#4 x 0x29#8).trans (by decide)⟩

theorem EncodeSelectsRow.ldB (x : RegIdx) : Statement (.ldB x) :=
  ⟨⟨"LD_B_VX", 0xF033#16, 0xF0FF#16⟩, by simp [opcodeTable, rowsW, rowsA, rowsXK, rowsXY, rowsX], rfl, (mask_encX 0xF#4 x 0x33#8).trans (by decide)⟩

theorem EncodeSelectsRow.storeRegs (x : RegIdx) : Statement (.storeRegs x) :=
  ⟨⟨"LD_I_IND_VX", 0xF055#16, 0xF0FF#16⟩, by simp [opcodeTable, rowsW, rowsA, rowsXK, rowsXY, rowsX], rfl, (mask_encX 0xF#4 x 0x55#8).trans (by decide)⟩

theorem EncodeSelectsRow.loadRegs (x : RegIdx) : Statement (.loadRegs x) :=
  ⟨⟨"LD_VX_I_IND", 0xF065#16, 0xF0FF#16⟩, by simp [opcodeTable, rowsW, rowsA, rowsXK, rowsXY, rowsX], rfl, (mask_encX 0xF#4 x 0x65#8).trans (by decide)⟩

end Sys2Proof.Laws
end

