-- ==== Sys2Proof/Laws/Step.lean ====
section
/-! SUPPORT. What a step can do, said once, and how an invariant of every step carries over to runs. -/

namespace Sys2Proof.Machine

/-- Only the outside world has moved on. -/
abbrev EnvOnly (s s0 : State) : Prop := s0 = { s with env := s0.env }

/-- Taking the first turn off the script changes the outside world alone. -/
theorem State.dropTurn_envOnly (s : State) : EnvOnly s s.dropTurn := rfl

theorem State.dropTurn_of_turns {s : State} {t : Turn} {ts : List Turn} (h : s.env.turns = t :: ts) :
    s.dropTurn = { s with env := { s.env with turns := ts } } := by
  simp [State.dropTurn, h]

/-- One CPU step: the fetch check fires, or the word at `pc` runs as the instruction it decodes to, or it is unrecognized. -/
theorem cpuStep_cases {s t : State} (h : cpuStep s = .next t) :
    (4094 < s.pc ∧ t = s.raisePcOutOfBounds) ∨
    (s.pc ≤ 4094 ∧ ∃ i, decodeWord s.fetchWord = .ok i ∧ exec i (s.setPc (s.pc + 2)) = .next t) ∨
    (s.pc ≤ 4094 ∧ ∃ e, decodeWord s.fetchWord = .error e ∧
      t = (s.setPc (s.pc + 2)).invalidOpcode s.pc s.fetchWord) := by
  unfold cpuStep at h
  split at h
  · rename_i hp
    cases h
    exact .inl ⟨hp, rfl⟩
  · rename_i hp
    have hp : s.pc ≤ 4094 := Nat.le_of_not_lt hp
    split at h
    · rename_i i hi; exact .inr (.inl ⟨hp, i, hi, h⟩)
    · rename_i e he; cases h; exact .inr (.inr ⟨hp, e, he, rfl⟩)

/-- One step: the CPU's, from a state whose outside world alone may have moved; an outside step; or a wait that goes on. -/
theorem step_cases {s t : State} (h : step s = .next t) :
    (s.RS = .running ∧ ∃ s0, CpuTurn s s0 ∧ cpuStep s0 = .next t) ∨
    ((s.RS = .running ∨ ∃ x, s.RS = .waitKey x) ∧ ∃ s0 e, EnvOnly s s0 ∧ t = s0.outsideStep e) ∨
    ((∃ x, s.RS = .waitKey x) ∧ EnvOnly s t) := by
  unfold step at h
  split at h
  · rename_i hr
    unfold runningStep at h
    split at h
    · rename_i ht; exact .inl ⟨hr, s, .inl ⟨ht, rfl⟩, h⟩
    · rename_i ts ht; exact .inl ⟨hr, _, .inr ⟨ts, ht, State.dropTurn_of_turns ht⟩, h⟩
    · rename_i e ts ht; cases h; exact .inr (.inl ⟨.inl hr, _, e, rfl, rfl⟩)
  · rename_i x hr
    unfold waitStep at h
    split at h
    · split at h
      · cases h; exact .inr (.inr ⟨⟨x, hr⟩, rfl⟩)
      · rename_i e _; cases h; exact .inr (.inl ⟨.inr ⟨x, hr⟩, s.countDraw, e, rfl, rfl⟩)
    · cases h; exact .inr (.inr ⟨⟨x, hr⟩, rfl⟩)
    · rename_i e ts _; cases h; exact .inr (.inl ⟨.inr ⟨x, hr⟩, s.dropTurn, e, rfl, rfl⟩)
  · cases h
  · cases h
  · cases h

/-- What an outside step can do: store a key and resume, stop the run, move the timers, or nothing. -/
theorem outsideStep_cases (s : State) (e : OutsideStep) :
    (∃ x k, s.RS = .waitKey x ∧ e = .keyPress k ∧ s.outsideStep e = (s.setReg x (k.setWidth 8)).setRS .running) ∨
    ((s.RS = .running ∨ ∃ x, s.RS = .waitKey x) ∧ e = .cancel ∧ s.outsideStep e = s.setRS .stopped) ∨
    (s.cfg.timerTick = .on ∧ e = .tick ∧ s.outsideStep e = s.countDown) ∨
    s.outsideStep e = s := by
  cases e with
  | keyPress k => cases h : s.RS <;> simp [State.outsideStep, State.deliverKey, h]
  | cancel => cases h : s.RS <;> simp [State.outsideStep, State.cancel, h]
  | tick => cases h : s.RS <;> cases hc : s.cfg.timerTick <;> simp [State.outsideStep, State.tick, h, hc]

/-- The CPU's turn changes the outside world alone. -/
theorem CpuTurn.envOnly {s s0 : State} (h : CpuTurn s s0) : EnvOnly s s0 := by
  rcases h with ⟨-, rfl⟩ | ⟨ts, -, rfl⟩ <;> rfl

/-- In RUNNING, on the CPU's turn, the step is the CPU's. -/
theorem step_of_cpuTurn {s s0 : State} (hr : s.RS = .running) (h : CpuTurn s s0) : step s = cpuStep s0 := by
  rcases h with ⟨ht, rfl⟩ | ⟨ts, ht, rfl⟩
  · simp [step, hr, runningStep, ht]
  · simp [step, hr, runningStep, ht, State.dropTurn]

/-- In RUNNING or WAIT_KEY, on an outside agent's turn, the step is that agent's. -/
theorem step_of_outsideTurn {s s0 : State} {e : OutsideStep} (hr : s.RS = .running ∨ ∃ x, s.RS = .waitKey x)
    (h : OutsideTurn s e s0) : step s = .next (s0.outsideStep e) := by
  obtain ⟨ts, ht, rfl⟩ := h
  rcases hr with hr | ⟨x, hr⟩
  · simp [step, hr, runningStep, ht, State.dropTurn]
  · simp [step, hr, waitStep, ht, State.dropTurn]

/-- In WAIT_KEY the step is the outside step that is next, or nothing, from a state whose outside world alone has moved. -/
theorem step_of_waitKey {s : State} {x : RegIdx} (hr : s.RS = .waitKey x) :
    ∃ s0, EnvOnly s s0 ∧ step s = .next (match waitTurn s with | none => s0 | some e => s0.outsideStep e) := by
  rcases ht : s.env.turns with _ | ⟨_ | e, ts⟩
  · refine ⟨s.countDraw, rfl, ?_⟩
    cases hf : Config.freeOutside s.env.draws <;> simp [step, hr, waitStep, waitTurn, ht, hf]
  · exact ⟨s.dropTurn, rfl, by simp [step, hr, waitStep, waitTurn, ht]⟩
  · exact ⟨s.dropTurn, rfl, by simp [step, hr, waitStep, waitTurn, ht]⟩

/-- The fetched word is the big-endian value of its two bytes (spec/20_memory.md R60). -/
theorem State.fetchWord_eq (s : State) : s.fetchWord = bigEndianAt s s.pc := by
  apply BitVec.eq_of_toNat_eq
  have e : s.fetchWord.toNat = (s.readByte s.pc).toNat <<< 8 ||| (s.readByte (s.pc + 1)).toNat :=
    BitVec.toNat_append _ _
  have h1 := (s.readByte s.pc).isLt
  have h2 := (s.readByte (s.pc + 1)).isLt
  rw [e, ← Nat.shiftLeft_add_eq_or_of_lt h2, Nat.shiftLeft_eq, BitVec.toNat_ofNat, Nat.mod_eq_of_lt (by omega)]
  omega

/-- An invariant is kept by every step when it speaks neither of `env` nor of `pc` and is kept by each thing a step can do. -/
theorem step_keeps {Inv : State → Prop} (henv : ∀ s s0, EnvOnly s s0 → Inv s → Inv s0)
    (hpc : ∀ s a, Inv s → Inv (s.setPc a)) (hout : ∀ s e, Inv s → Inv (s.outsideStep e))
    (hoob : ∀ s, s.RS = .running → Inv s → Inv s.raisePcOutOfBounds)
    (hinv : ∀ s a op, s.RS = .running → Inv s → Inv (s.invalidOpcode a op))
    (hexec : ∀ i s t, s.RS = .running → Inv s → exec i s = .next t → Inv t) {s t : State} (hs : Inv s)
    (h : step s = .next t) : Inv t := by
  rcases step_cases h with ⟨hr, s0, ht, hc⟩ | ⟨-, s0, e, h0, rfl⟩ | ⟨-, ht⟩
  · have hr0 : s0.RS = .running := by rw [ht.envOnly]; exact hr
    have hi := henv s s0 ht.envOnly hs
    rcases cpuStep_cases hc with ⟨-, rfl⟩ | ⟨-, i, -, he⟩ | ⟨-, e, -, rfl⟩
    · exact hoob _ hr0 hi
    · exact hexec i (s0.setPc (s0.pc + 2)) t hr0 (hpc _ _ hi) he
    · exact hinv (s0.setPc _) _ _ hr0 (hpc _ _ hi)
  · exact hout _ _ (henv s s0 h0 hs)
  · exact henv _ _ ht hs

/-- An invariant that every step keeps holds after any number of steps. -/
theorem run_keeps {Inv : State → Prop} (hstep : ∀ s t, Inv s → step s = .next t → Inv t) :
    ∀ (k : Nat) (s t : State), Inv s → Sys2Proof.core.run k s = .next t → Inv t := by
  intro k
  induction k with
  | zero => intro s t hs h; cases h; exact hs
  | succ k ih =>
    intro s t hs h
    cases hst : step s with
    | next u => exact ih u t (hstep s u hs hst) (by simpa [Host.Core.run, Sys2Proof.core, hst] using h)
    | fault r => simp [Host.Core.run, Sys2Proof.core, hst] at h
    | refused r => simp [Host.Core.run, Sys2Proof.core, hst] at h

end Sys2Proof.Machine
end

