-- ==== Sys2Proof/Machine/Assembly.lean ====
section
/-! DEFINITION. The assembly text of an instruction (spec/30_encoding.md R100). Notation only: no behaviour depends on it, and
the mnemonics are the spec's own choice (decision D20, G4). Labels, comments and the `DB` directive (R101) belong to an
assembler and are not modelled (log 30). -/

namespace Sys2Proof.Machine

/-- One hexadecimal digit. -/
def hexDigit (n : Nibble) : String :=
  (["0", "1", "2", "3", "4", "5", "6", "7"] ++ ["8", "9", "A", "B", "C", "D", "E", "F"])[n.toNat]?.getD ""

/-- `V0` to `VF`. -/
def regText (x : RegIdx) : String := "V" ++ hexDigit x

/-- An immediate byte in hexadecimal. -/
def byteText (kk : Byte) : String := "0x" ++ hexDigit (kk.extractLsb' 4 4) ++ hexDigit (kk.extractLsb' 0 4)

/-- An address in hexadecimal. -/
def addrText (nnn : Addr12) : String :=
  "0x" ++ hexDigit (nnn.extractLsb' 8 4) ++ hexDigit (nnn.extractLsb' 4 4) ++ hexDigit (nnn.extractLsb' 0 4)

/-- `op Vx, Vy`. -/
def twoRegText (name : String) (x y : RegIdx) : String := name ++ " " ++ regText x ++ ", " ++ regText y

/-- `op Vx, kk`. -/
def regByteText (name : String) (x : RegIdx) (kk : Byte) : String := name ++ " " ++ regText x ++ ", " ++ byteText kk

/-- The line a disassembler prints; for `SHR` and `SHL` it is the same for every `y` (spec/30_encoding.md R100). -/
def asmText : Instr → String
  | .halt => "HALT"
  | .cls => "CLS"
  | .ret => "RET"
  | .jp nnn => "JP " ++ addrText nnn
  | .call nnn => "CALL " ++ addrText nnn
  | .seImm x kk => regByteText "SE" x kk
  | .sneImm x kk => regByteText "SNE" x kk
  | .seReg x y => twoRegText "SE" x y
  | .ldImm x kk => regByteText "LD" x kk
  | .addImm x kk => regByteText "ADD" x kk
  | .ldReg x y => twoRegText "LD" x y
  | .orReg x y => twoRegText "OR" x y
  | .andReg x y => twoRegText "AND" x y
  | .xorReg x y => twoRegText "XOR" x y
  | .addReg x y => twoRegText "ADD" x y
  | .subReg x y => twoRegText "SUB" x y
  | .shr x _ => "SHR " ++ regText x
  | .subnReg x y => twoRegText "SUBN" x y
  | .shl x _ => "SHL " ++ regText x
  | .sneReg x y => twoRegText "SNE" x y
  | .ldI nnn => "LD I, " ++ addrText nnn
  | .jpV0 nnn => "JP V0, " ++ addrText nnn
  | .rnd x kk => regByteText "RND" x kk
  | .drw x y n => twoRegText "DRW" x y ++ ", 0x" ++ hexDigit n
  | .skp x => "SKP " ++ regText x
  | .sknp x => "SKNP " ++ regText x
  | .ldVxDT x => "LD " ++ regText x ++ ", DT"
  | .ldVxK x => "LD " ++ regText x ++ ", K"
  | .ldDTVx x => "LD DT, " ++ regText x
  | .ldSTVx x => "LD ST, " ++ regText x
  | .addIVx x => "ADD I, " ++ regText x
  | .ldF x => "LD F, " ++ regText x
  | .ldB x => "LD B, " ++ regText x
  | .storeRegs x => "LD [I], " ++ regText x
  | .loadRegs x => "LD " ++ regText x ++ ", [I]"

end Sys2Proof.Machine
end

