-- ==== Sys2Proof/Tests/Slice0.lean ====
section
/-! SUPPORT. Small tests, their expected results written out from the spec's own tables (the ids F1, A9, M7, ... are those of
spec/95_test_vectors.md; the encodings are those of spec/30_encoding.md R93), and for each obligation with hypotheses a
concrete state and operands that meet them. Each test is one step. -/

namespace Sys2Proof.Tests

open Sys2Proof.Machine

/-! ### Helpers -/

/-- Reset, with one instruction placed at 0x200. -/
def start (op : Nat) : State := State.reset.withFetchWord 16 op

/-- The same with the three registers that most vectors set. -/
def startV (op : Nat) (v1 v2 vF : Byte) : State := (((start op).setReg 1 v1).setReg 2 v2).setReg 0xF vF

/-- The state with a scripted outside world. -/
def scripted (s : State) (turns : List Turn) (masks : List Word) (randoms : List Byte) : State :=
  { s with env := { turns := turns, masks := masks, randoms := randoms, draws := 0 } }

/-- One step answers a next state that passes the check. -/
def runs (s : State) (check : State → Bool) : Bool :=
  match step s with
  | .next t => check t
  | .fault _ => false
  | .refused _ => false

/-- The run has taken the fault, its record as given. -/
def tookFault (t : State) (kind : FaultKind) (op : Option Word) (index : Option Nat) : Bool :=
  decide (t.RS = .faulted ∧ t.FR = some ⟨kind, 0x200, op, index⟩ ∧ t.pc = 0x202 ∧ t.EV = [])

/-! ### WellFormed: each check refuses an ill-formed term (and passes a well-formed one) -/

theorem test_wf_odd_jump_refused : (Instr.jp 0x203#12).wellFormed = false := by decide

theorem test_wf_odd_call_refused : (Instr.call 0x301#12).wellFormed = false := by decide

theorem test_wf_add_to_flag_refused : (Instr.addReg 0xF 1).wellFormed = false := by decide

theorem test_wf_sub_to_flag_refused : (Instr.subReg 0xF 1).wellFormed = false := by decide

theorem test_wf_shr_of_flag_refused : (Instr.shr 0xF 1).wellFormed = false := by decide

theorem test_wf_subn_to_flag_refused : (Instr.subnReg 0xF 1).wellFormed = false := by decide

theorem test_wf_shl_of_flag_refused : (Instr.shl 0xF 1).wellFormed = false := by decide

theorem test_wf_accepts : (Instr.jp 0x204#12).wellFormed ∧ (Instr.addReg 1 0xF).wellFormed ∧ (Instr.ldImm 0xF 1).wellFormed := by
  decide

/-! ### Decoding: every constructor, its word written out bit by bit from the patterns of spec/30_encoding.md R93 -/

theorem test_decode_format_W :
    decodeWord 0b0000000000000000#16 = .ok .halt ∧ decodeWord 0b0000000011100000#16 = .ok .cls ∧
    decodeWord 0b0000000011101110#16 = .ok .ret := by decide

theorem test_decode_format_A :
    decodeWord 0b0001001000110100#16 = .ok (.jp 0x234#12) ∧ decodeWord 0b0010001100000001#16 = .ok (.call 0x301#12) ∧
    decodeWord 0b1010001011110000#16 = .ok (.ldI 0x2F0#12) ∧ decodeWord 0b1011111111111111#16 = .ok (.jpV0 0xFFF#12) := by
  decide

theorem test_decode_format_XK :
    decodeWord 0b0011001100101010#16 = .ok (.seImm 3 0x2A) ∧ decodeWord 0b0100001100101010#16 = .ok (.sneImm 3 0x2A) ∧
    decodeWord 0b0110101001111111#16 = .ok (.ldImm 0xA 0x7F) ∧ decodeWord 0b0111001011111111#16 = .ok (.addImm 2 0xFF) ∧
    decodeWord 0b1100001100001111#16 = .ok (.rnd 3 0x0F) := by decide

theorem test_decode_format_XYN :
    decodeWord 0b1101000100100101#16 = .ok (.drw 1 2 5) ∧ decodeWord 0b1101000000000000#16 = .ok (.drw 0 0 0) := by decide

theorem test_decode_format_XY :
    decodeWord 0b0101000100100000#16 = .ok (.seReg 1 2) ∧ decodeWord 0b1001000100100000#16 = .ok (.sneReg 1 2) ∧
    decodeWord 0b1000001101000000#16 = .ok (.ldReg 3 4) ∧ decodeWord 0b1000000100100001#16 = .ok (.orReg 1 2) ∧
    decodeWord 0b1000000100100010#16 = .ok (.andReg 1 2) ∧ decodeWord 0b1000000100100011#16 = .ok (.xorReg 1 2) ∧
    decodeWord 0b1000000100100100#16 = .ok (.addReg 1 2) ∧ decodeWord 0b1000000100100101#16 = .ok (.subReg 1 2) ∧
    decodeWord 0b1000101010110110#16 = .ok (.shr 0xA 0xB) ∧ decodeWord 0b1000000100100111#16 = .ok (.subnReg 1 2) ∧
    decodeWord 0b1000010100001110#16 = .ok (.shl 5 0) := by decide

theorem test_decode_format_X :
    decodeWord 0b1110001010011110#16 = .ok (.skp 2) ∧ decodeWord 0b1110001010100001#16 = .ok (.sknp 2) ∧
    decodeWord 0b1111010000000111#16 = .ok (.ldVxDT 4) ∧ decodeWord 0b1111001100001010#16 = .ok (.ldVxK 3) ∧
    decodeWord 0b1111010000010101#16 = .ok (.ldDTVx 4) ∧ decodeWord 0b1111010000011000#16 = .ok (.ldSTVx 4) ∧
    decodeWord 0b1111001000011110#16 = .ok (.addIVx 2) ∧ decodeWord 0b1111010000101001#16 = .ok (.ldF 4) ∧
    decodeWord 0b1111001100110011#16 = .ok (.ldB 3) ∧ decodeWord 0b1111001001010101#16 = .ok (.storeRegs 2) ∧
    decodeWord 0b1111000101100101#16 = .ok (.loadRegs 1) := by decide

/-- X1 to X8, and the words beside the recognized ones: one of each group of R96, rejected by its name. -/
theorem test_decode_rejects_by_group :
    decodeWord 0x0001#16 = .error .unrecognized0 ∧ decodeWord 0x00E1#16 = .error .unrecognized0 ∧
    decodeWord 0x0FFF#16 = .error .unrecognized0 ∧ decodeWord 0x5121#16 = .error .unrecognized5 ∧
    decodeWord 0x9121#16 = .error .unrecognized9 ∧ decodeWord 0x8128#16 = .error .unrecognized8 ∧
    decodeWord 0x812F#16 = .error .unrecognized8 ∧ decodeWord 0xE19F#16 = .error .unrecognizedE ∧
    decodeWord 0xF100#16 = .error .unrecognizedF := by decide

/-- X11: bytes A2 F0 are the opcode 0xA2F0, the byte after them is left; one byte is no instruction. -/
theorem test_decode_bytes :
    decode [0xA2, 0xF0, 0x77] = .ok (.ldI 0x2F0#12, [0x77]) ∧ decode [0xA2] = .error .truncated ∧
    decodeTableWord 16 0xA2F0 = some (.ldI 0x2F0#12) := by decide

/-- The table's row count, and the words of the formats as they are written back (R92, R93). -/
theorem test_encode :
    encode (.jp 0x234) = 0x1234#16 ∧ encode (.seImm 3 0x2A) = 0x332A#16 ∧ encode (.shr 0xA 0xB) = 0x8AB6#16 ∧
    encode (.drw 1 2 5) = 0xD125#16 ∧ encode (.loadRegs 1) = 0xF165#16 ∧ opcodeTable.length = 35 := by decide

/-- R100: the lines of program P3 and P5. -/
theorem test_asm_text :
    asmText (.drw 2 3 5) = "DRW V2, V3, 0x5" ∧ asmText (.storeRegs 1) = "LD [I], V1" ∧ asmText (.shr 0xA 0xB) = "SHR VA" := by
  decide

/-! ### Control transfer (F) -/

/-- F1. -/
theorem test_jp : runs (start 0x1234) (fun t => decide (t.pc = 0x234 ∧ t.RS = .running)) = true := by decide

/-- F4. -/
theorem test_call :
    runs (start 0x2300) (fun t => decide (t.pc = 0x300 ∧ t.SP = 1 ∧ t.STACK[0] = 0x202)) = true := by decide

/-- F5. -/
theorem test_call_overflow :
    runs { start 0x2300 with SP := 16 } (fun t => tookFault t .stackOverflow (some 0x2300#16) none && decide (t.SP = 16)) =
      true := by decide

/-- F6, the instruction at 0x200. -/
theorem test_ret :
    runs { start 0x00EE with SP := 1, STACK := (start 0).STACK.set 0 0x20A }
      (fun t => decide (t.pc = 0x20A ∧ t.SP = 0 ∧ t.STACK[0] = 0x20A)) = true := by decide

/-- F7, S9. -/
theorem test_ret_underflow :
    runs (start 0x00EE) (fun t => tookFault t .stackUnderflow (some 0x00EE#16) none && decide (t.SP = 0)) = true := by decide

/-- F8 and F9. -/
theorem test_se_imm :
    runs ((start 0x332A).setReg 3 0x2A) (fun t => decide (t.pc = 0x204)) ∧
    runs ((start 0x332A).setReg 3 0x2B) (fun t => decide (t.pc = 0x202)) := by decide

/-- F10 and F11. -/
theorem test_sne_imm :
    runs ((start 0x432A).setReg 3 0x2A) (fun t => decide (t.pc = 0x202)) ∧
    runs (start 0x432A) (fun t => decide (t.pc = 0x204)) := by decide

/-- F12, and the registers differing. -/
theorem test_se_reg :
    runs (startV 0x5120 7 7 0) (fun t => decide (t.pc = 0x204)) ∧
    runs (startV 0x5120 7 8 0) (fun t => decide (t.pc = 0x202)) := by decide

/-- F14 and F15. -/
theorem test_sne_reg :
    runs (startV 0x9120 7 8 0) (fun t => decide (t.pc = 0x204)) ∧
    runs (start 0x9550) (fun t => decide (t.pc = 0x202)) := by decide

/-- F16 and F17. -/
theorem test_jp_v0 :
    runs ((start 0xB300).setReg 0 0x04) (fun t => decide (t.pc = 0x304)) ∧
    runs ((start 0xBFFF).setReg 0 0xFF) (fun t => decide (t.pc = 0x10FE ∧ t.RS = .running)) := by decide

/-- F19, and the fetch after F17. -/
theorem test_fetch_past_top :
    runs { State.reset with pc := 4095 }
      (fun t => decide (t.RS = .faulted ∧ t.pc = 4095 ∧ t.FR = some ⟨.pcOutOfBounds, 4095, none, none⟩)) ∧
    runs { State.reset with pc := 0x10FE } (fun t => decide (t.FR = some ⟨.pcOutOfBounds, 0x10FE, none, none⟩)) := by
  decide

/-! ### Load, arithmetic, logic, shift, random (A) -/

/-- A1. -/
theorem test_ld_imm : runs (start 0x6A7F) (fun t => decide (t.reg 0xA = 0x7F ∧ t.pc = 0x202)) = true := by decide

/-- A2 and A3. -/
theorem test_add_imm :
    runs (startV 0x7220 0 0xF0 0) (fun t => decide (t.reg 2 = 0x10 ∧ t.reg 0xF = 0)) ∧
    runs (startV 0x7201 0 0xFF 1) (fun t => decide (t.reg 2 = 0x00 ∧ t.reg 0xF = 1)) := by decide

/-- A4, with the registers of the other vectors. -/
theorem test_ld_reg : runs (startV 0x8120 0x11 0x33 0) (fun t => decide (t.reg 1 = 0x33 ∧ t.reg 2 = 0x33)) = true := by decide

/-- A5. -/
theorem test_or : runs (startV 0x8121 0x0F 0xF0 1) (fun t => decide (t.reg 1 = 0xFF ∧ t.reg 0xF = 1)) = true := by decide

/-- A6. -/
theorem test_and : runs (startV 0x8122 0x3C 0x0F 0) (fun t => decide (t.reg 1 = 0x0C)) = true := by decide

/-- A7. -/
theorem test_xor : runs (startV 0x8123 0xFF 0x0F 0) (fun t => decide (t.reg 1 = 0xF0)) = true := by decide

/-- A9 and A10. -/
theorem test_add_carry :
    runs (startV 0x8124 0xC8 0x64 0) (fun t => decide (t.reg 1 = 0x2C ∧ t.reg 0xF = 1)) ∧
    runs (startV 0x8124 0x80 0x7F 1) (fun t => decide (t.reg 1 = 0xFF ∧ t.reg 0xF = 0)) := by decide

/-- A12 and A13: VF as destination, VF as source. -/
theorem test_add_with_vf :
    runs (startV 0x8F14 0x02 0 0xFF) (fun t => decide (t.reg 0xF = 1 ∧ t.reg 1 = 2)) ∧
    runs (startV 0x81F4 0xFF 0 0x01) (fun t => decide (t.reg 1 = 0 ∧ t.reg 0xF = 1)) := by decide

/-- A14 and A15. -/
theorem test_sub :
    runs (startV 0x8125 0x05 0x0A 1) (fun t => decide (t.reg 1 = 0xFB ∧ t.reg 0xF = 0)) ∧
    runs (startV 0x8125 0x07 0x07 0) (fun t => decide (t.reg 1 = 0x00 ∧ t.reg 0xF = 1)) := by decide

/-- A16. -/
theorem test_sub_to_vf : runs (startV 0x8F15 0x07 0 0x05) (fun t => decide (t.reg 0xF = 0)) = true := by decide

/-- A17 and A18. -/
theorem test_subn :
    runs (startV 0x8127 0x05 0x0A 0) (fun t => decide (t.reg 1 = 0x05 ∧ t.reg 0xF = 1)) ∧
    runs (startV 0x8127 0x0A 0x05 1) (fun t => decide (t.reg 1 = 0xFB ∧ t.reg 0xF = 0)) := by decide

/-- A20 and A21. -/
theorem test_shr :
    runs (((start 0x8576).setReg 5 0x05).setReg 7 0xAA)
      (fun t => decide (t.reg 5 = 0x02 ∧ t.reg 0xF = 1 ∧ t.reg 7 = 0xAA)) ∧
    runs (startV 0x8506 0 0 1) (fun t => decide (t.reg 5 = 0 ∧ t.reg 0xF = 0)) := by decide

/-- A22 and A23. -/
theorem test_shr_of_vf :
    runs (startV 0x8F16 0 0 3) (fun t => decide (t.reg 0xF = 1)) ∧ runs (startV 0x8F16 0 0 2) (fun t => decide (t.reg 0xF = 0)) := by
  decide

/-- A24 and A25 (S10: the flag of a left shift is set). -/
theorem test_shl :
    runs ((start 0x850E).setReg 5 0x81) (fun t => decide (t.reg 5 = 0x02 ∧ t.reg 0xF = 1)) ∧
    runs ((startV 0x850E 0 0 1).setReg 5 0x7F) (fun t => decide (t.reg 5 = 0xFE ∧ t.reg 0xF = 0)) := by decide

/-- A27, and the draw is used up. -/
theorem test_rnd :
    runs (scripted (start 0xC30F) [] [] [0xB7, 0x55]) (fun t => decide (t.reg 3 = 0x07 ∧ t.env.randoms = [0x55])) = true := by
  decide

/-! ### Index register and memory (M) -/

/-- M1. -/
theorem test_ld_i : runs (start 0xA2F0) (fun t => decide (t.I = 0x02F0)) = true := by decide

/-- M3 and M4. -/
theorem test_add_i :
    runs ((startV 0xF21E 0 1 0).setI 0x0FFF) (fun t => decide (t.I = 0x1000 ∧ t.reg 0xF = 0 ∧ t.RS = .running)) ∧
    runs ((startV 0xF21E 0 2 0).setI 0xFFFF) (fun t => decide (t.I = 0x0001)) := by decide

/-- The smallest legal I_WIDTH, 12 (spec/00_scope.md R7): the wrap of R162 is then at 4096, not at 65536. -/
theorem test_add_i_width12 :
    runs { (startV 0xF21E 0 2 0).setI 0x0FFF with cfg := { decidedConfig with iWidth := ⟨12, by decide⟩ } }
      (fun t => decide (t.I = 0x0001)) = true := by decide

/-- M5 and M6. -/
theorem test_ld_f :
    runs ((start 0xF429).setReg 4 0x0A) (fun t => decide (t.I = 0x0032)) ∧
    runs ((start 0xF429).setReg 4 0xFF) (fun t => decide (t.I = 0x04FB)) := by decide

/-- M8. -/
theorem test_ld_b :
    runs (((start 0xF333).setReg 3 0xFF).setI 4093)
      (fun t => decide (t.readByte 4093 = 2 ∧ t.readByte 4094 = 5 ∧ t.readByte 4095 = 5 ∧ t.I = 4093)) = true := by decide

/-- M9. -/
theorem test_ld_b_past_top :
    runs (((start 0xF333).setReg 3 0xFF).setI 4094)
      (fun t => tookFault t .memIndexOutOfBounds (some 0xF333#16) (some 4094) && decide (t.readByte 4094 = 0)) = true := by
  decide

/-- M10. -/
theorem test_store_regs :
    runs (((startV 0xF255 0x22 0x33 0).setReg 0 0x11).setI 0x400)
      (fun t => decide (t.readByte 0x400 = 0x11 ∧ t.readByte 0x401 = 0x22 ∧ t.readByte 0x402 = 0x33 ∧
        t.readByte 0x403 = 0 ∧ t.I = 0x400)) = true := by decide

/-- M12. -/
theorem test_store_regs_past_top :
    runs ((start 0xFF55).setI 4081)
      (fun t => tookFault t .memIndexOutOfBounds (some 0xFF55#16) (some 4081)) = true := by decide

/-- M13. -/
theorem test_load_regs :
    runs ((((startV 0xF165 0 0x77 0).writeByte 0x400 0xAA).writeByte 0x401 0xBB).setI 0x400)
      (fun t => decide (t.reg 0 = 0xAA ∧ t.reg 1 = 0xBB ∧ t.reg 2 = 0x77 ∧ t.I = 0x400)) = true := by decide

/-- M16: the font's glyph 0. -/
theorem test_load_font :
    runs (start 0xF465)
      (fun t => decide (t.reg 0 = 0xF0 ∧ t.reg 1 = 0x90 ∧ t.reg 2 = 0x90 ∧ t.reg 3 = 0x90 ∧ t.reg 4 = 0xF0)) = true := by decide

/-! ### Display (G) -/

/-- G1, after one pixel was set. -/
theorem test_cls :
    runs { startV 0x00E0 0 0 5 with FB := [(3, 4)] }
      (fun t => decide (t.FB = [] ∧ t.EV = [.clear] ∧ t.reg 0xF = 5)) = true := by decide

/-- G2: columns wrap in their row, rows wrap to the top. -/
theorem test_drw_wraps :
    runs ((((startV 0xD122 126 63 1).writeByte 0x300 0xFF).writeByte 0x301 0x81).setI 0x300)
      (fun t => decide (t.reg 0xF = 0 ∧ t.EV = [.draw 63 126 true, .draw 63 127 true, .draw 63 0 true, .draw 63 1 true,
        .draw 63 2 true, .draw 63 3 true, .draw 63 4 true, .draw 63 5 true, .draw 0 126 true, .draw 0 5 true])) = true := by
  decide

/-- G6: collision, and a sprite bit 0 leaves its pixel alone. -/
theorem test_drw_collides :
    runs { (((startV 0xD121 0 0 0).writeByte 0x300 0xF0).setI 0x300) with FB := [(0, 3), (0, 4)] }
      (fun t => decide (t.reg 0xF = 1 ∧ t.FB = [(0, 0), (0, 1), (0, 2), (0, 4)] ∧
        t.EV = [.draw 0 0 true, .draw 0 1 true, .draw 0 2 true, .draw 0 3 false])) = true := by decide

/-- G4: the larger framebuffer. -/
theorem test_drw_large :
    runs { (((startV 0xD121 130 70 0).writeByte 0x300 0xC0).setI 0x300) with
        cfg := { decidedConfig with display := .rows128cols256 } }
      (fun t => decide (t.EV = [.draw 70 130 true, .draw 70 131 true])) = true := by decide

/-! ### System, keypad, timers (K) -/

/-- K1. -/
theorem test_halt :
    runs (start 0x0000) (fun t => decide (t.RS = .halted ∧ t.EV = [.shutdown] ∧ t.pc = 0x202)) = true := by decide

/-- K2 and K3. -/
theorem test_skp :
    runs (scripted (startV 0xE29E 0 5 0) [] [0x0020#16] []) (fun t => decide (t.pc = 0x204 ∧ t.env.masks = [])) ∧
    runs (scripted (startV 0xE29E 0 5 0) [] [0xFFDF#16] []) (fun t => decide (t.pc = 0x202)) := by decide

/-- K6 and K8. -/
theorem test_skp_edge :
    runs (scripted (startV 0xE29E 0 0x10 0) [] [0xFFFF#16] []) (fun t => decide (t.pc = 0x202)) ∧
    runs (scripted (startV 0xE29E 0 0x0F 0) [] [0x8000#16] []) (fun t => decide (t.pc = 0x204)) := by decide

/-- K4 and K5. -/
theorem test_sknp :
    runs (scripted (startV 0xE2A1 0 5 0) [] [0x0020#16] []) (fun t => decide (t.pc = 0x202)) ∧
    runs (scripted (startV 0xE2A1 0 5 0) [] [0x0000#16] []) (fun t => decide (t.pc = 0x204)) := by decide

/-- K7. -/
theorem test_sknp_no_key :
    runs (scripted (startV 0xE2A1 0 0x10 0) [] [0xFFFF#16] []) (fun t => decide (t.pc = 0x204)) = true := by decide

/-- K9. -/
theorem test_ld_key :
    runs (start 0xF30A) (fun t => decide (t.RS = .waitKey 3 ∧ t.pc = 0x202 ∧ t.reg 3 = 0)) = true := by decide

/-- A key wait for V3, the outside world scripted. -/
def waiting (turns : List Turn) : State := scripted { start 0xF30A with RS := .waitKey 3 } turns [] []

/-- K10. -/
theorem test_key_press :
    runs (waiting [.outside (.keyPress 0xB)]) (fun t => decide (t.reg 3 = 0x0B ∧ t.RS = .running)) = true := by decide

/-- K11. -/
theorem test_cancel :
    runs (waiting [.outside .cancel]) (fun t => decide (t.RS = .stopped ∧ t.reg 3 = 0 ∧ t.EV = [] ∧ t.FR = none)) = true := by
  decide

/-- K12. -/
theorem test_ld_vx_dt :
    runs ((start 0xF407).setDT 0x3C) (fun t => decide (t.reg 4 = 0x3C ∧ t.DT = 0x3C)) = true := by decide

/-- K13. -/
theorem test_ld_dt_vx :
    runs ((start 0xF415).setReg 4 0x3C) (fun t => decide (t.DT = 0x3C ∧ t.ST = 0)) = true := by decide

/-- K14. -/
theorem test_ld_st_vx :
    runs ((start 0xF418).setReg 4 0x08) (fun t => decide (t.ST = 0x08 ∧ t.DT = 0)) = true := by decide

/-- The tick's turn, with `TIMER_TICK` as given. -/
def ticking (tt : TimerTick) (dt st : Byte) : State :=
  scripted { start 0x1200 with cfg := { decidedConfig with timerTick := tt }, DT := dt, ST := st } [.outside .tick] [] []

/-- K15, its first tick and one at 0. -/
theorem test_tick :
    runs (ticking .on 2 0) (fun t => decide (t.DT = 1 ∧ t.ST = 0 ∧ t.pc = 0x200)) ∧
    runs (ticking .on 0 1) (fun t => decide (t.DT = 0 ∧ t.ST = 0)) ∧
    runs (ticking .off 2 0) (fun t => decide (t.DT = 2 ∧ t.ST = 0)) := by decide

/-! ### Unrecognized words (X), the end of a run, loading -/

/-- The word at 0x200 under the `Nop` policy. -/
def startNop (op : Nat) : State := { start op with cfg := { decidedConfig with invalidOpcodePolicy := .nop } }

/-- X1 and X3 under `Fatal`. -/
theorem test_invalid_fatal :
    runs (start 0x0001) (fun t => tookFault t .invalidOpcode (some 0x0001#16) none) ∧
    runs (start 0x5121) (fun t => tookFault t .invalidOpcode (some 0x5121#16) none) := by decide

/-- X1 under `Nop`. -/
theorem test_invalid_nop :
    runs (startNop 0x0001) (fun t => decide (t.LOG = [(0x200, 0x0001#16)] ∧ t.pc = 0x202 ∧ t.RS = .running)) = true := by
  decide

/-- In a terminal run state there is no step (spec/10_state.md R44). -/
theorem test_terminal :
    step { State.reset with RS := .halted } = .fault .halted ∧ step { State.reset with RS := .faulted } = .fault .faulted ∧
    step { State.reset with RS := .stopped } = .fault .stopped := ⟨rfl, rfl, rfl⟩

/-- The image of S5 loads at 0x200 (spec/20_memory.md R80). -/
theorem test_load :
    (match State.reset.loadProgram [0x22, 0x04, 0x00, 0x00, 0x00, 0xEE] with
      | .ok t => decide (t.readByte 0x200 = 0x22 ∧ t.readByte 0x205 = 0xEE ∧ t.LOADPTR = 0x206 ∧ t.pc = 0x200)
      | .error _ => false) = true := by decide

/-- The font of spec/10_state.md R41: its first and its last glyph, and the byte above it. -/
theorem test_reset_font :
    State.reset.readByte 0x000 = 0xF0 ∧ State.reset.readByte 0x001 = 0x90 ∧ State.reset.readByte 0x04B = 0xF0 ∧
    State.reset.readByte 0x04F = 0x80 ∧ State.reset.readByte 0x050 = 0x00 := by decide

/-! ### Witnesses: concrete states and operands that meet the hypotheses of the obligations, clause by clause -/

/-- A running state with a stored byte, a lit pixel, its event, a full register file and a call on the stack. -/
def busy : State :=
  { startV 0x8124 0xC8 0x64 0 with MEM := [(0x200, 0x81), (0x201, 0x24), (0xFFF, 0x80)], FB := [(0, 3)], EV := [.draw 0 3 true],
                                   SP := 1, STACK := (start 0).STACK.set 0 0x20A, I := 0xFFF }

/-- A step is possible, and it is to a next state. -/
def steps (s : State) : Bool := runs s fun _ => true

/-- An instruction executed in a state answers a next state. -/
def execs (i : Instr) (s : State) : Bool :=
  match exec i s with
  | .next _ => true
  | .fault _ => false
  | .refused _ => false

theorem witness_EncodeInvertsDecode : decodeWord 0x8AB6#16 = .ok (.shr 0xA 0xB) ∧ decodeWord 0xD12F#16 = .ok (.drw 1 2 0xF) := by
  decide

theorem witness_OpcodeTableDecidesDecoding :
    (⟨"SHR_VX", 0x8006#16, 0xF00F#16⟩ : OpcodeRow) ∈ opcodeTable ∧
    (⟨"SHR_VX", 0x8006#16, 0xF00F#16⟩ : OpcodeRow).selects 0x8AB6#16 ∧ decodeWord 0x8AB6#16 = .ok (.shr 0xA 0xB) := by decide

theorem witness_ShiftsIgnoreTheYField : (7#4 : RegIdx) ≠ 5#4 ∧ (0xF#4 : RegIdx) ≠ 5#4 ∧ (7#4 : RegIdx) ≠ flagReg := by decide

/-- `SE V0, 0` in the last two bytes of memory. -/
def atTop : State := { (State.reset.writeByte 4094 0x30) with pc := 4094 }

/-- `LD V1, 0x2A` at an odd address, the CPU's turn scripted and a cancel after it. -/
def atOdd : State :=
  scripted { ((State.reset.writeByte 0x203 0x61).writeByte 0x204 0x2A) with pc := 0x203 } [.cpu, .outside .cancel] [] []

theorem witness_StepRunsTheDecodedInstruction :
    atTop.RS = .running ∧ CpuTurn atTop atTop ∧ atTop.pc ≤ 4094 ∧
    decodeWord (bigEndianAt atTop atTop.pc) = .ok (.seImm 0 0) :=
  ⟨rfl, .inl ⟨rfl, rfl⟩, by decide, by decide⟩

theorem witness_StepRunsTheDecodedInstruction_scripted_odd :
    atOdd.RS = .running ∧ CpuTurn atOdd (scripted atOdd [.outside .cancel] [] []) ∧ atOdd.pc ≤ 4094 ∧
    decodeWord (bigEndianAt atOdd atOdd.pc) = .ok (.ldImm 1 0x2A) :=
  ⟨rfl, .inr ⟨_, rfl, rfl⟩, by decide, by decide⟩

/-- `pc` at the last byte of memory. -/
def pastTop : State := { State.reset with pc := 4095 }

theorem witness_FetchPastTheTopFaults :
    pastTop.RS = .running ∧ CpuTurn pastTop pastTop ∧ 4094 < pastTop.pc ∧
    CpuTurn (scripted pastTop [.cpu] [] []) (scripted pastTop [] [] []) :=
  ⟨rfl, .inl ⟨rfl, rfl⟩, by decide, .inr ⟨_, rfl, rfl⟩⟩

theorem witness_UnrecognizedWordFollowsThePolicy :
    (start 0x5121).RS = .running ∧ CpuTurn (start 0x5121) (start 0x5121) ∧ (start 0x5121).pc ≤ 4094 ∧
    decodeWord (bigEndianAt (start 0x5121) (start 0x5121).pc) = .error .unrecognized5 ∧
    (start 0x5121).cfg.invalidOpcodePolicy = .fatal ∧ (startNop 0x5121).cfg.invalidOpcodePolicy = .nop ∧
    decodeWord (bigEndianAt (startNop 0x5121) (startNop 0x5121).pc) = .error .unrecognized5 :=
  ⟨rfl, .inl ⟨rfl, rfl⟩, by decide, by decide, rfl, rfl, by decide⟩

theorem witness_StepExistsExactlyBeforeTheEnd :
    steps State.reset = true ∧ steps (waiting [.cpu]) = true ∧ steps { State.reset with RS := .halted } = false ∧
    steps { State.reset with RS := .faulted } = false ∧ steps { State.reset with RS := .stopped } = false := by decide

/-- `LD [I], V1` storing the next instruction (program P5 of spec/95_test_vectors.md, after its store has been fetched). -/
def selfModifying : State := { ((start 0).setReg 0 0x6A).setReg 1 0x55 with pc := 0x20A, I := 0x20A }

theorem witness_NextFetchSeesTheStore :
    selfModifying.RS = .running ∧ selfModifying.env.turns = [] ∧ 1 ≤ (1#4 : RegIdx).toNat ∧ selfModifying.I = selfModifying.pc ∧
    selfModifying.I + (1#4 : RegIdx).toNat ≤ 4095 ∧ execs (.storeRegs 1) selfModifying = true ∧
    decodeWord (BitVec.ofNat 16 (256 * (selfModifying.reg 0).toNat + (selfModifying.reg 1).toNat)) = .ok (.ldImm 0xA 0x55) := by
  decide

theorem witness_KeyPressEndsTheWait :
    OutsideTurn (waiting [.outside (.keyPress 0xF), .cpu]) (.keyPress 0xF) (waiting [.cpu]) ∧ (waiting [.cpu]).RS = .waitKey 3 ∧
    OutsideTurn (scripted busy [.outside (.keyPress 0)] [] []) (.keyPress 0) busy ∧ busy.RS = .running :=
  ⟨⟨_, rfl, rfl⟩, rfl, ⟨_, rfl, rfl⟩, rfl⟩

theorem witness_CancelOnlyStopsTheRun :
    OutsideTurn (waiting [.outside .cancel]) .cancel (waiting []) ∧ (waiting []).RS = .waitKey 3 ∧
    OutsideTurn (scripted busy [.outside .cancel] [] []) .cancel busy ∧ busy.RS = .running :=
  ⟨⟨_, rfl, rfl⟩, rfl, ⟨_, rfl, rfl⟩, rfl⟩

theorem witness_TickLowersTheTimers :
    OutsideTurn (ticking .on 255 0) .tick (scripted (ticking .on 255 0) [] [] []) ∧ (ticking .on 255 0).RS = .running ∧
    (ticking .on 255 0).cfg.timerTick = .on ∧ (ticking .off 255 0).cfg.timerTick = .off ∧
    OutsideTurn (waiting [.outside .tick]) .tick (waiting []) ∧ (waiting []).RS = .waitKey 3 :=
  ⟨⟨_, rfl, rfl⟩, rfl, rfl, rfl, ⟨_, rfl, rfl⟩, rfl⟩

/-- One state for each of the three things that can be next, and one for the CPU's turn. -/
theorem witness_WaitEndsOnlyByKeyOrCancel :
    (waiting []).RS = .waitKey 3 ∧ (waiting []).cfg.timerTick = .off ∧
    steps (waiting [.outside (.keyPress 0xF)]) = true ∧ waitTurn (waiting [.outside (.keyPress 0xF)]) = some (.keyPress 0xF) ∧
    steps (waiting [.outside .cancel]) = true ∧ waitTurn (waiting [.outside .cancel]) = some .cancel ∧
    steps (waiting [.outside .tick]) = true ∧ waitTurn (waiting [.outside .tick]) = some .tick ∧
    steps (waiting [.cpu]) = true ∧ waitTurn (waiting [.cpu]) = none := by decide

theorem witness_StepKeepsCanonicalForms : busy.canonical ∧ steps busy = true := by decide

theorem witness_StepKeepsScreenEqualToEvents : busy.screenMatchesEvents ∧ steps busy = true := by
  refine ⟨fun r c => ?_, by decide⟩
  simp [busy, State.pixel, Fb.get, pixelFromEvents, pixelAfterEvent, eq_comm]

theorem witness_StepKeepsFaultRecordExact :
    busy.faultRecorded ∧ steps busy = true ∧ pastTop.faultRecorded ∧ steps pastTop = true := by
  refine ⟨⟨fun h => absurd rfl h, nofun⟩, by decide, ⟨fun h => absurd rfl h, nofun⟩, by decide⟩

theorem witness_StepKeepsShutdownLast :
    busy.shutdownOnlyLast ∧ steps busy = true ∧ (start 0).shutdownOnlyLast ∧ steps (start 0) = true := by
  refine ⟨?_, by decide, ?_, by decide⟩
  · show Event.shutdown ∉ busy.EV; decide
  · show Event.shutdown ∉ (start 0).EV; decide

/-- A state whose registers are at the top of the smallest legal widths. -/
def narrow : State :=
  { busy with cfg := { decidedConfig with pcWidth := ⟨13, by decide⟩, iWidth := ⟨12, by decide⟩ }, I := 4095, SP := 16,
              STACK := Vector.replicate 16 8191 }

theorem witness_StepKeepsRegisterWidths : narrow.widthsHold ∧ steps narrow = true ∧ busy.widthsHold ∧ steps busy = true := by
  decide

theorem witness_PcWidthChangesNoBehaviour :
    steps busy = true ∧ busy.cfg.pcWidth = ⟨16, by decide⟩ ∧ (busy.withPcWidth ⟨13, by decide⟩).cfg.pcWidth = ⟨13, by decide⟩ := by
  decide

theorem witness_StepOnlyAppendsToTheStreams : steps busy = true ∧ steps (start 0) = true ∧ steps (startNop 1) = true := by decide

theorem witness_OnlyTheirInstructionsEmit :
    execs .cls busy = true ∧ execs .halt busy = true ∧ execs (.drw 1 2 1) busy = true ∧ execs (.ldF 1) busy = true := by decide

theorem witness_OnlyTheFlagWritersWriteVF :
    leavesFlag (.ldImm 0xE 1) ∧ execs (.ldImm 0xE 1) busy = true ∧ execs (.addReg 0xF 1) busy = true ∧
    execs (.drw 1 2 1) busy = true ∧ ¬ faultsIn (.drw 1 2 1) busy :=
  ⟨fun h => absurd h (by decide), by decide, by decide, by decide, fun h => absurd h (by unfold faultsIn; decide)⟩

theorem witness_ProgramCounterChangesOnlyTheseWays :
    execs .ret busy = true ∧ execs (.jpV0 0xFFF) busy = true ∧ execs (.seImm 1 0xC8) busy = true ∧
    execs (.call 0x300) busy = true ∧ execs (.addReg 1 2) busy = true := by decide

theorem witness_InstructionsFaultExactlyInTheseCases :
    busy.RS = .running ∧ execs (.drw 1 2 2) busy = true ∧ faultsIn (.drw 1 2 2) busy ∧ ¬ faultsIn (.drw 1 2 1) busy ∧
    execs (.drw 1 2 1) busy = true :=
  ⟨rfl, by decide, by unfold faultsIn; decide, by unfold faultsIn; decide, by decide⟩

/-- The state with `I` at the given value. -/
def atI (v : Nat) : State := (startV 0 0xC8 0x64 1).setI v

/-- Each range at the first value that passes the top, and the last that does not. -/
theorem witness_MemoryIndexFaults :
    4093 < (atI 4094).I ∧ ¬ 4093 < (atI 4093).I ∧
    4095 < (atI 4081).I + (0xF#4 : RegIdx).toNat ∧ ¬ 4095 < (atI 4080).I + (0xF#4 : RegIdx).toNat ∧
    4095 < (atI 4096).I + (0#4 : RegIdx).toNat ∧ ¬ 4095 < (atI 4095).I + (0#4 : RegIdx).toNat ∧
    (0 < (2#4 : Nibble).toNat ∧ 4096 < (atI 4095).I + (2#4 : Nibble).toNat) ∧
    ¬ 4096 < (atI 4095).I + (1#4 : Nibble).toNat ∧ ¬ 0 < (0#4 : Nibble).toNat := by decide

theorem witness_ReturnPopsIntoPc : 0 < busy.SP.val ∧ (start 0).SP.val = 0 ∧ 0 < { busy with SP := 16 }.SP.val := by decide

theorem witness_CallPushesTheReturnAddress :
    (start 0).SP.val < 16 ∧ { busy with SP := 15 }.SP.val < 16 ∧ { busy with SP := 16 }.SP.val = 16 := by decide

/-- S5 of spec/95_test_vectors.md, with nothing between the call and the return. -/
theorem witness_ReturnUndoesCall :
    (start 0x2204).SP.val < 16 ∧
    ∃ t w, exec (.call 0x204) (start 0x2204) = .next t ∧ t.SP = t.SP ∧ t.STACK = t.STACK ∧ exec .ret t = .next w :=
  ⟨by decide, _, _, rfl, rfl, rfl, rfl⟩

theorem witness_LoadsAndAddImmediate : ¬ (flagReg = (0xE#4 : RegIdx)) := by decide

theorem witness_LogicIsBitwise : (1#4 : RegIdx) ≠ flagReg := by decide

/-- A sum of 255 and a sum of 256, the two sides of the carry. -/
theorem witness_AddSetsCarry :
    (1#4 : RegIdx) ≠ flagReg ∧ ¬ 256 ≤ (0x80#8 : Byte).toNat + (0x7F#8 : Byte).toNat ∧
    256 ≤ (0x80#8 : Byte).toNat + (0x80#8 : Byte).toNat := by decide

theorem witness_SubtractionsSetNotBorrow :
    (1#4 : RegIdx) ≠ flagReg ∧ (7#8 : Byte).toNat ≤ (7#8 : Byte).toNat ∧ ¬ (8#8 : Byte).toNat ≤ (7#8 : Byte).toNat := by decide

theorem witness_ShiftsSetTheBitShiftedOut : (5#4 : RegIdx) ≠ flagReg := by decide

theorem witness_RandomIsMasked :
    (scripted busy [] [] [0xB7, 0x55]).env.randoms = 0xB7 :: [0x55] ∧ busy.env.randoms = [] := by decide

theorem witness_DecimalDigitsAreStored :
    (atI 4093).I + 3 ≤ 4096 ∧ 4096 < (atI 4094).I + 3 ∧ 4096 < (atI 65535).I + 3 := by decide

theorem witness_RegistersAreStored :
    (atI 4080).I + (0xF#4 : RegIdx).toNat ≤ 4095 ∧ (atI 4095).I + (0#4 : RegIdx).toNat ≤ 4095 := by decide

theorem witness_RegistersAreLoaded :
    (atI 4080).I + (0xF#4 : RegIdx).toNat ≤ 4095 ∧ ¬ (atI 4081).I + (0xF#4 : RegIdx).toNat ≤ 4095 := by decide

theorem witness_LoadAfterStoreRestoresRegisters :
    (atI 4080).I + (0xF#4 : RegIdx).toNat ≤ 4095 ∧
    ∃ t w, exec (.storeRegs 0xF) (atI 4080) = .next t ∧ MemoryKept t t ∧ t.I = t.I ∧ exec (.loadRegs 0xF) t = .next w :=
  ⟨by decide, _, _, rfl, fun _ => rfl, rfl, rfl⟩

/-- The pixel at row 36 (100 mod 64), column 72 (200 mod 128) is covered by the one-row sprite 0x80 at the top of memory, its neighbour is not; a draw of
no row needs no memory. -/
theorem witness_DrawInvertsTheCoveredPixels :
    busy.I + (1#4 : Nibble).toNat ≤ 4096 ∧ (0#4 : Nibble) = 0#4 ∧ ¬ (atI 65535).I + (0#4 : Nibble).toNat ≤ 4096 ∧
    spriteCovers busy 1 2 1 36 72 ∧ ¬ spriteCovers busy 1 2 1 36 73 := by
  refine ⟨by decide, rfl, by decide, ⟨0, by decide, 0, by decide, by decide, by decide, by decide⟩, ?_⟩
  rintro ⟨r, hr, p, hp, hb, -, hc⟩
  have hr : r = 0 := by simpa using hr
  subst hr
  have h : ∀ q, q < 8 → spriteBitAt busy 0 q = true → 73 ≠ spriteCol busy 1 q := by decide
  exact h p hp hb hc

theorem witness_DrawEmitsInOrder :
    busy.I + (1#4 : Nibble).toNat ≤ 4096 ∧ spriteBitAt busy 0 0 = true ∧ spriteBitAt busy 0 1 = false := by decide

theorem witness_DrawingTwiceRestoresTheScreen :
    busy.I + (1#4 : Nibble).toNat ≤ 4096 ∧ (1#4 : RegIdx) ≠ flagReg ∧ (2#4 : RegIdx) ≠ flagReg ∧ busy.canonical ∧
    ∃ t u, exec (.drw 1 2 1) busy = .next t ∧ exec (.drw 1 2 1) t = .next u :=
  ⟨by decide, by decide, by decide, by decide, _, _, rfl, rfl⟩

theorem witness_KeypadSkipsTestOneBit :
    (scripted busy [] [0x8000#16, 0] []).env.masks = 0x8000#16 :: [0] ∧ busy.env.masks = [] ∧
    (startV 0 0x0F 0x10 0).reg 1 = 15 ∧ 15 < ((startV 0 0x0F 0x10 0).reg 2).toNat := by decide

theorem witness_FrameOfRegisterInstructions :
    registerResult (.loadRegs 0xF) ∧ execs (.loadRegs 0xF) (atI 4080) = true ∧ ¬ faultsIn (.loadRegs 0xF) (atI 4080) ∧
    execs (.loadRegs 0xF) (atI 4081) = true ∧ registerResult (.addReg 1 2) ∧ execs (.addReg 1 2) busy = true ∧
    ¬ destRegs (.addReg 1 2) 2 ∧ (∀ x kk, Instr.addReg 1 2 ≠ .rnd x kk) :=
  ⟨.inr (.inr ⟨_, .inr rfl⟩), by decide, by unfold faultsIn; decide, by decide,
    .inr (.inl ⟨1, 2, .inr (.inr (.inr (.inr (.inl rfl))))⟩), by decide, by unfold destRegs; decide, nofun⟩

theorem witness_FrameOfControlTransfers :
    isSkip (.skp 1) ∧ execs (.skp 1) (scripted busy [] [0] []) = true ∧ execs (.call 0x300) busy = true ∧
    ¬ faultsIn (.call 0x300) busy ∧ execs .ret busy = true ∧ ¬ faultsIn .ret busy ∧ execs (.jpV0 0x300) busy = true :=
  ⟨.inr (.inr ⟨1, .inl rfl⟩), by decide, by decide, by unfold faultsIn; decide, by decide, by unfold faultsIn; decide, by decide⟩

theorem witness_FrameOfIndexTimerAndSystem :
    execs (.ldI 0xFFF) busy = true ∧ execs (.addIVx 1) busy = true ∧ execs (.ldF 1) busy = true ∧ execs (.ldDTVx 1) busy = true ∧
    execs (.ldSTVx 1) busy = true ∧ execs .halt busy = true ∧ execs (.ldVxK 1) busy = true := by decide

theorem witness_FrameOfStores :
    execs (.ldB 1) (atI 4093) = true ∧ ¬ faultsIn (.ldB 1) (atI 4093) ∧ execs (.ldB 1) (atI 4094) = true ∧
    faultsIn (.ldB 1) (atI 4094) ∧ execs (.storeRegs 0xF) (atI 4080) = true ∧ ¬ faultsIn (.storeRegs 0xF) (atI 4080) :=
  ⟨by decide, by unfold faultsIn; decide, by decide, by unfold faultsIn; decide, by decide, by unfold faultsIn; decide⟩

theorem witness_FrameOfDisplayInstructions :
    execs .cls busy = true ∧ execs (.drw 1 2 1) busy = true ∧ ¬ faultsIn (.drw 1 2 1) busy ∧ execs (.drw 1 2 2) busy = true ∧
    faultsIn (.drw 1 2 2) busy ∧ ¬ destRegs (.drw 1 2 1) 1 :=
  ⟨by decide, by decide, by unfold faultsIn; decide, by decide, by unfold faultsIn; decide, by unfold destRegs; decide⟩

theorem witness_ResetHoldsTheseValues : State.reset = State.resetWith decidedConfig ∧ 74 < 75 ∧ 0 < 75 ∧ 80 ≤ 80 := by decide

/-- The loader two bytes below the top. -/
def almostFull : State := { State.reset with LOADPTR := 4094 }

theorem witness_LoadAppendsTheImage :
    almostFull.LOADPTR + [0x12, 0x00].length ≤ 4096 ∧ 4096 < almostFull.LOADPTR + [0x12, 0x00, 0x00].length := by decide

theorem witness_RepeatedLoadsConcatenate :
    almostFull.LOADPTR + [(0x12 : Byte)].length + [(0x00 : Byte)].length ≤ 4096 := by decide

end Sys2Proof.Tests
end

section
/-! The program counter: the advance of the fetch, and the ways an instruction changes `pc` (spec/10_state.md R26). -/

namespace Sys2Proof.Machine

/-! ### The advance before the execute phase -/

/-- A word that decodes runs after `pc` has moved past it (spec/70_reset_and_hazards.md R270). -/
theorem cpuStep_of_decode {s : State} {i : Instr} (hp : s.pc ≤ 4094) (hd : decodeWord s.fetchWord = .ok i) :
    cpuStep s = exec i (s.setPc (s.pc + 2)) := by
  rw [cpuStep, if_neg (show ¬ memSize - 2 < s.pc from Nat.not_lt.2 hp), hd]

/-- On the CPU's turn the step is the execute phase of the word at `pc`, with `pc` already at the next word. -/
theorem step_of_decode {s s0 : State} {i : Instr} (hr : s.RS = .running) (ht : CpuTurn s s0) (hp : s.pc ≤ 4094)
    (hd : decodeWord (bigEndianAt s s.pc) = .ok i) : step s = exec i { s0 with pc := s.pc + 2 } := by
  have h0 : s0 = { s with env := s0.env } := ht.envOnly
  have hpc : s0.pc = s.pc := by rw [h0]
  have hword : s0.fetchWord = bigEndianAt s s.pc := by
    rw [h0]
    exact s.fetchWord_eq
  rw [step_of_cpuTurn hr ht, cpuStep_of_decode (hpc ▸ hp) (hword ▸ hd), hpc, State.setPc]

/-! ### What the execute phase does to `pc` -/

/-- The ways of R26, each with the instructions it belongs to. -/
inductive PcChange (i : Instr) (s t : State) : Prop
  /-- sequential flow, a skip not taken, or a fault: the advance of the fetch stands -/
  | kept (h : t.pc = s.pc)
  /-- a taken skip -/
  | skipped (hi : isSkip i) (h : t.pc = s.pc + 2)
  /-- a jump or a call that found room -/
  | jumped (nnn : Addr12) (hi : i = .jp nnn ∨ i = .call nnn) (h : t.pc = nnn.toNat)
  /-- a jump to `nnn + V0` -/
  | indexed (nnn : Addr12) (hi : i = .jpV0 nnn) (h : t.pc = nnn.toNat + (s.reg 0).toNat)
  /-- a return that found an entry -/
  | popped (hi : i = .ret) (hsp : 0 < s.SP.val) (h : t.pc = s.STACK[s.SP.val - 1]'(by omega))

/-- A skip instruction, whatever it does to the rest of the state before its test, keeps `pc` or adds 2 to it. -/
theorem PcChange.of_skipIf {i : Instr} {s u : State} (hi : isSkip i) (hu : u.pc = s.pc) (c : Bool) :
    PcChange i s (u.skipIf c) := by
  cases c with
  | false => exact .kept hu
  | true => exact .skipped hi (congrArg (· + 2) hu)

/-- An instruction that checks its memory range keeps `pc` when its effect does: the fault of a failed check never moves
`pc` (spec/60_exceptions.md R230). -/
theorem PcChange.of_rangeCheck {i j : Instr} {s t u : State} {bad : Bool} (hu : u.pc = s.pc)
    (h : (if bad then .next (s.raiseMemIndex j) else .next u : Result) = .next t) : PcChange i s t := by
  cases bad <;> cases h
  · exact .kept hu
  · exact .kept rfl

/-- A return pops into `pc`, or underflows and keeps it (spec/40_flow.md R121). -/
theorem execRet_pcChange {s t : State} (h : execRet s = .next t) : PcChange .ret s t := by
  by_cases hsp : 0 < s.SP.val
  · rw [execRet, State.pop_of_pos hsp] at h
    cases h
    exact .popped rfl hsp rfl
  · rw [execRet, State.pop_empty (Nat.eq_zero_of_not_pos hsp)] at h
    cases h
    exact .kept rfl

/-- A call jumps, or overflows and keeps `pc` (spec/40_flow.md R123). -/
theorem execCall_pcChange {nnn : Addr12} {s t : State} (h : execCall nnn s = .next t) : PcChange (.call nnn) s t := by
  by_cases hsp : s.SP.val < 16
  · rw [execCall, State.push_of_lt hsp] at h
    cases h
    exact .jumped nnn (.inr rfl) rfl
  · rw [execCall, State.push_full (show s.SP.val = 16 by omega)] at h
    cases h
    exact .kept rfl

/-- Every instruction changes `pc` in one of the ways of R26. -/
theorem exec_pcChange {i : Instr} {s t : State} (h : exec i s = .next t) : PcChange i s t := by
  cases i with
  | ret => exact execRet_pcChange h
  | call nnn => exact execCall_pcChange h
  | jp nnn => cases h; exact .jumped nnn (.inl rfl) rfl
  | jpV0 nnn => cases h; exact .indexed nnn rfl rfl
  | seImm x kk => cases h; exact .of_skipIf (.inl ⟨x, kk, .inl rfl⟩) rfl _
  | sneImm x kk => cases h; exact .of_skipIf (.inl ⟨x, kk, .inr rfl⟩) rfl _
  | seReg x y => cases h; exact .of_skipIf (.inr (.inl ⟨x, y, .inl rfl⟩)) rfl _
  | sneReg x y => cases h; exact .of_skipIf (.inr (.inl ⟨x, y, .inr rfl⟩)) rfl _
  | skp x => cases h; exact .of_skipIf (.inr (.inr ⟨x, .inl rfl⟩)) s.afterKeypadQuery_pc _
  | sknp x => cases h; exact .of_skipIf (.inr (.inr ⟨x, .inr rfl⟩)) s.afterKeypadQuery_pc _
  | drw x y n => exact .of_rangeCheck (s.blit_pc _) h
  | ldB x => exact .of_rangeCheck (s.writeBytes_pc _ _) h
  | storeRegs x => exact .of_rangeCheck (s.writeBytes_pc _ _) h
  | loadRegs x => exact .of_rangeCheck (s.loadRegsUpTo_pc x) h
  | rnd x kk => cases h; exact .kept s.afterRandomDraw_pc
  | halt | cls | ldImm | addImm | ldReg | orReg | andReg | xorReg | addReg | subReg | shr | subnReg | shl | ldI | ldVxDT
  | ldVxK | ldDTVx | ldSTVx | addIVx | ldF =>
    cases h
    exact .kept rfl

/-- Settles O26: the fetch's advance is `step_of_decode`, the closed list of ways is `exec_pcChange`. -/
theorem programCounterChangesOnlyTheseWays : Obligations.ProgramCounterChangesOnlyTheseWays := by
  refine ⟨fun s s0 i => step_of_decode, fun i s t h => ?_⟩
  cases exec_pcChange h with
  | kept h => exact .inl h
  | skipped hi h => exact .inr (.inl ⟨hi, h⟩)
  | jumped nnn hi h => exact .inr (.inr (.inl ⟨nnn, hi, h⟩))
  | indexed nnn hi h => exact .inr (.inr (.inr (.inl ⟨nnn, hi, h⟩)))
  | popped hi hsp h => exact .inr (.inr (.inr (.inr ⟨hi, hsp, h⟩)))

end Sys2Proof.Machine
end

section
/-! The host's load operation: what a load that fits leaves, and two loads in turn (spec/20_memory.md R80, R81). -/

namespace Sys2Proof.Machine

/-- The state after a load that fits: the image at the loader offset, and the offset past it (spec/20_memory.md R80). -/
def State.withImage (s : State) (bytes : List Byte) : State :=
  { s.writeBytes s.LOADPTR bytes with LOADPTR := s.LOADPTR + bytes.length }

theorem State.loadProgram_of_fits {s : State} {bytes : List Byte} (h : s.LOADPTR + bytes.length ≤ memSize) :
    s.loadProgram bytes = .ok (s.withImage bytes) := if_pos h

@[simp] theorem State.withImage_LOADPTR (s : State) (bytes : List Byte) :
    (s.withImage bytes).LOADPTR = s.LOADPTR + bytes.length := rfl

@[simp] theorem State.withImage_pc (s : State) (bytes : List Byte) : (s.withImage bytes).pc = s.pc :=
  s.writeBytes_pc _ _

/-- A load writes `MEM` and `LOADPTR` alone. -/
theorem State.withImage_eq (s : State) (bytes : List Byte) :
    s.withImage bytes =
      { s with MEM := (s.writeBytes s.LOADPTR bytes).MEM, LOADPTR := s.LOADPTR + bytes.length } := by
  rw [State.withImage, State.writeBytes_eq]

/-- After a load, memory reads as after storing the image at the loader offset. -/
theorem State.readByte_withImage (s : State) (bytes : List Byte) (k : Nat) :
    (s.withImage bytes).readByte k = (s.writeBytes s.LOADPTR bytes).readByte k := rfl

/-- The `j`-th byte of a loaded image. -/
theorem State.readByte_withImage_inside (s : State) (bytes : List Byte) (j : Nat) (h : j < bytes.length) :
    (s.withImage bytes).readByte (s.LOADPTR + j) = bytes[j] := by
  rw [State.readByte_withImage, State.readByte_writeBytes_inside s s.LOADPTR bytes j h]

/-- A second image is appended to the first: the two loads leave what one load of the concatenation leaves. -/
theorem State.withImage_withImage (s : State) (first second : List Byte) :
    (s.withImage first).withImage second = s.withImage (first ++ second) := by
  have hmem : ((s.withImage first).writeBytes (s.LOADPTR + first.length) second).MEM =
      (s.writeBytes s.LOADPTR (first ++ second)).MEM := by
    rw [State.writeBytes_append]
    exact State.writeBytes_MEM_congr (s := s.withImage first) (t := s.writeBytes s.LOADPTR first) rfl rfl _ _
  rw [State.withImage_eq (s.withImage first), State.withImage_LOADPTR, hmem, State.withImage_eq s first,
    State.withImage_eq s (first ++ second), List.length_append, Nat.add_assoc]

/-- Settles O60: both loads fit, and they are one load of the concatenation (`State.withImage_withImage`), whose first part
is the first image; the second image is read as the last one loaded. -/
theorem repeatedLoadsConcatenate : Obligations.RepeatedLoadsConcatenate := by
  intro s first second hfit
  have hboth : s.LOADPTR + (first ++ second).length ≤ memSize := by
    rw [List.length_append, ← Nat.add_assoc]
    exact hfit
  have hfirst : s.LOADPTR + first.length ≤ memSize := Nat.le_trans (Nat.le_add_right _ _) hfit
  refine ⟨s.withImage first, (s.withImage first).withImage second, State.loadProgram_of_fits hfirst,
    State.loadProgram_of_fits hfit, ?_, fun j hj => ?_, fun j hj => ?_, ?_⟩
  · rw [State.withImage_withImage, State.loadProgram_of_fits hboth]
  · have hj' : j < (first ++ second).length := by rw [List.length_append]; omega
    rw [State.withImage_withImage, State.readByte_withImage_inside s _ j hj', List.getElem_append_left hj]
  · exact (s.withImage first).readByte_withImage_inside second j hj
  · rw [State.withImage_pc, State.withImage_pc]

end Sys2Proof.Machine
end

section
/-! Jumps and register skips: the whole next state of each (spec/40_flow.md R120, R122, R124 to R127). -/

namespace Sys2Proof.Machine

/-- A jump only replaces `pc`: it has no check, so no path of it faults. -/
theorem exec_jp (nnn : Addr12) (s : State) : exec (.jp nnn) s = .next (s.setPc nnn.toNat) := rfl

/-- Settles O32: the next state is `s.setPc nnn`, which differs from `s` in `pc` alone. -/
theorem jumpSetsPc : Obligations.JumpSetsPc := by
  intro s nnn
  exact ⟨s.setPc nnn.toNat, exec_jp nnn s, s.setPc_pc _, rfl⟩

/-- A skip changes `pc` alone, whether it is taken or not. -/
theorem State.skipIf_eq (s : State) (c : Bool) : s.skipIf c = { s with pc := if c then s.pc + 2 else s.pc } := by
  cases c with
  | false => rfl
  | true => rfl

/-- The skip on equality. -/
theorem State.skipIf_beq (s : State) (a b : Byte) :
    s.skipIf (a == b) = { s with pc := if a = b then s.pc + 2 else s.pc } := by
  simp only [s.skipIf_eq, beq_iff_eq]

/-- The skip on inequality, with its two outcomes named by the equality. -/
theorem State.skipIf_bne (s : State) (a b : Byte) :
    s.skipIf (a != b) = { s with pc := if a = b then s.pc else s.pc + 2 } := by
  simp only [s.skipIf_eq, bne_iff_ne, ite_not]

/-- Settles O34: each of the four is `skipIf` on the test of its two operands, an immediate or a register. -/
theorem skipsCompareAndAdvance : Obligations.SkipsCompareAndAdvance := by
  intro s x y kk
  refine ⟨?seImm, ?sneImm, ?seReg, ?sneReg⟩
  case seImm => exact congrArg Host.Outcome.next (s.skipIf_beq (s.reg x) kk)
  case sneImm => exact congrArg Host.Outcome.next (s.skipIf_bne (s.reg x) kk)
  case seReg => exact congrArg Host.Outcome.next (s.skipIf_beq (s.reg x) (s.reg y))
  case sneReg => exact congrArg Host.Outcome.next (s.skipIf_bne (s.reg x) (s.reg y))

end Sys2Proof.Machine
end

section
/-! Loads and the immediate addition: each writes one register and nothing else (spec/41_load_alu.md R141 to R143). -/

namespace Sys2Proof.Machine

/-! ### What each of the three leaves: the state with `Vx` replaced -/

theorem exec_ldImm (x : RegIdx) (kk : Byte) (s : State) : exec (.ldImm x kk) s = .next (s.setReg x kk) := rfl

theorem exec_addImm (x : RegIdx) (kk : Byte) (s : State) :
    exec (.addImm x kk) s = .next (s.setReg x (s.reg x + kk)) := rfl

theorem exec_ldReg (x y : RegIdx) (s : State) : exec (.ldReg x y) s = .next (s.setReg x (s.reg y)) := rfl

/-! ### A write to one register -/

theorem State.reg_setReg_same (s : State) (x : RegIdx) (b : Byte) : (s.setReg x b).reg x = b := by
  rw [State.reg_setReg, if_pos rfl]

theorem State.setReg_regsKept (s : State) (x : RegIdx) (b : Byte) : RegsKept (· = x) s (s.setReg x b) := by
  intro r hr
  rw [State.reg_setReg, if_neg hr]

/-- A register write touches `V` alone, so it raises no fault and emits no event. -/
theorem State.setReg_eq (s : State) (x : RegIdx) (b : Byte) : s.setReg x b = { s with V := (s.setReg x b).V } := rfl

/-- Settles O35: each next state is a `setReg` to `x`, which leaves the other registers (`State.setReg_regsKept`) and all
but `V` (`State.setReg_eq`); the addition is that of bytes, so it wraps. -/
theorem loadsAndAddImmediate : Obligations.LoadsAndAddImmediate := by
  intro s x y kk
  refine ⟨?ldImm, ?addImm, ?ldReg⟩
  case ldImm =>
    exact ⟨_, exec_ldImm x kk s, s.reg_setReg_same x kk, s.setReg_regsKept x kk, s.setReg_eq x kk⟩
  case addImm =>
    have hsum : ((s.setReg x (s.reg x + kk)).reg x).toNat = ((s.reg x).toNat + kk.toNat) % 256 := by
      rw [State.reg_setReg_same, BitVec.toNat_add]
    exact ⟨_, exec_addImm x kk s, hsum, s.setReg_regsKept x _, s.setReg_eq x _⟩
  case ldReg =>
    exact ⟨_, exec_ldReg x y s, s.reg_setReg_same x _, s.setReg_regsKept x _, s.setReg_eq x _⟩

end Sys2Proof.Machine
end

section
/-! Clearing the screen: the whole next state of CLS (spec/43_display.md R181). -/

namespace Sys2Proof.Machine

theorem exec_cls (s : State) : exec .cls s = .next (s.clearFb.emit .clear) := rfl

/-- With no pixel listed, every pixel reads 0. -/
theorem State.pixel_of_FB_nil {s : State} (h : s.FB = []) (r c : Nat) : s.pixel r c = false := by
  rw [State.pixel, h]
  rfl

/-- Clearing the screen and emitting an event touch `FB` and `EV` alone. -/
theorem State.emit_clearFb_eq (s : State) (e : Event) :
    s.clearFb.emit e = { s with FB := [], EV := s.EV ++ [e] } := rfl

/-- Settles O46: CLS has no check and no case, so the one next state `exec_cls` gives serves every `s`, a screen that is
already blank included; its pixel list is empty and its stream is that of `s` with one Clear behind. -/
theorem clearZeroesTheScreen : Obligations.ClearZeroesTheScreen := by
  intro s
  have hblank : (s.clearFb.emit .clear).FB = [] := by rw [State.emit_FB, State.clearFb_FB]
  have hevents : (s.clearFb.emit .clear).EV = s.EV ++ [.clear] := by rw [State.emit_EV, State.clearFb_EV]
  refine ⟨s.clearFb.emit .clear, exec_cls s, State.pixel_of_FB_nil hblank, hevents, ?_⟩
  rw [hblank, hevents, State.emit_clearFb_eq]

end Sys2Proof.Machine
end

section
/-! Encoding: the decoder read backwards and forwards, and the opcode table (spec/30_encoding.md). -/

namespace Sys2Proof

/-! ### From an instruction to its opcode and back (R90, R93) -/

/-- The decoder reads every instruction back from its opcode: each format's fields are the operands. -/
theorem decodeWord_encode (i : Instr) : decodeWord (encode i) = .ok i := by
  cases i with
  | halt | cls | ret => decide
  | jp | call | ldI | jpV0 => simp [encode, decodeWord]
  | seImm | sneImm | ldImm | addImm | rnd => simp [encode, decodeWord]
  | seReg | sneReg | drw => simp [encode, decodeWord]
  | ldReg | orReg | andReg | xorReg | addReg | subReg | shr | subnReg | shl => simp [encode, decodeWord, decode8]
  | skp | sknp => simp [encode, decodeWord, decodeE]
  | ldVxDT | ldVxK | ldDTVx | ldSTVx | addIVx | ldF | ldB | storeRegs | loadRegs =>
    simp [encode, decodeWord, decodeF]

/-- A byte sequence that begins with an opcode decodes as the opcode, whatever follows (R90). -/
theorem decode_opcodeBytes_append (op : Word) (rest : List Byte) :
    decode (opcodeBytes op ++ rest) = (decodeWord op).map fun i => (i, rest) := by
  show (decodeWord (combineBytes (highByte op) (lowByte op))).map (fun i => (i, rest)) = _
  rw [combineBytes_high_low]

/-- Settles O1: the word is `decodeWord_encode`, the bytes reduce to it. -/
theorem decodeInvertsEncode : Obligations.DecodeInvertsEncode := by
  intro i
  refine ⟨decodeWord_encode i, fun rest => ?_⟩
  rw [decode_opcodeBytes_append, decodeWord_encode]
  rfl

/-! ### From a word that decodes to its opcode -/

section
variable {op : Word} {h n : Nibble} {kk : Byte}

theorem encA_opNNN (hh : opH op = h) : encA h (opNNN op) = op := hh ▸ encA_fields op

theorem encXK_opX_opKK (hh : opH op = h) : encXK h (opX op) (opKK op) = op := hh ▸ encXK_fields op

theorem encXK_opX (hh : opH op = h) (hk : opKK op = kk) : encXK h (opX op) kk = op := hk ▸ encXK_opX_opKK hh

theorem encXYN_opX_opY (hh : opH op = h) (hn : opN op = n) : encXYN h (opX op) (opY op) n = op :=
  hh ▸ hn ▸ encXYN_fields op

end

theorem encode_of_decode0 {op : Word} {i : Instr} (h : decode0 op = .ok i) : encode i = op := by
  unfold decode0 at h
  split at h
  · rename_i e; cases h; exact e.symm
  · split at h
    · rename_i e; cases h; exact e.symm
    · split at h
      · rename_i e; cases h; exact e.symm
      · cases h

theorem encode_of_decode8 {op : Word} {i : Instr} (hh : opH op = 0x8#4) (h : decode8 op = .ok i) : encode i = op := by
  unfold decode8 at h
  split at h <;> cases h <;> exact encXYN_opX_opY hh (BitVec.eq_of_toNat_eq ‹_›)

theorem encode_of_decodeE {op : Word} {i : Instr} (hh : opH op = 0xE#4) (h : decodeE op = .ok i) : encode i = op := by
  unfold decodeE at h
  repeat' split at h
  all_goals cases h
  all_goals exact encXK_opX hh ‹_›

theorem encode_of_decodeF {op : Word} {i : Instr} (hh : opH op = 0xF#4) (h : decodeF op = .ok i) : encode i = op := by
  unfold decodeF at h
  repeat' split at h
  all_goals cases h
  all_goals exact encXK_opX hh ‹_›

/-- The last arm of the decoder is `h = F`: a nibble has no other value left. -/
theorem opH_eq_F {op : Word} (h : ∀ k < 15, (opH op).toNat ≠ k) : opH op = 0xF#4 := by
  have hlt := (opH op).isLt
  have hge : 15 ≤ (opH op).toNat := Nat.le_of_not_lt fun hl => h _ hl rfl
  exact BitVec.eq_of_toNat_eq (show (opH op).toNat = 15 by omega)

/-- A word that decodes is the opcode of its instruction, arm by arm of the major opcode (R94). -/
theorem encode_of_decodeWord {op : Word} {i : Instr} (h : decodeWord op = .ok i) : encode i = op := by
  unfold decodeWord at h
  split at h
  case h_1 => exact encode_of_decode0 h
  case h_2 hh | h_3 hh | h_11 hh | h_12 hh => cases h; exact encA_opNNN (BitVec.eq_of_toNat_eq hh)
  case h_4 hh | h_5 hh | h_7 hh | h_8 hh | h_13 hh => cases h; exact encXK_opX_opKK (BitVec.eq_of_toNat_eq hh)
  case h_6 hh | h_10 hh =>
    split at h
    · rename_i hn; cases h; exact encXYN_opX_opY (BitVec.eq_of_toNat_eq hh) hn
    · cases h
  case h_9 hh => exact encode_of_decode8 (BitVec.eq_of_toNat_eq hh) h
  case h_14 hh => cases h; exact encXYN_opX_opY (BitVec.eq_of_toNat_eq hh) rfl
  case h_15 hh => exact encode_of_decodeE (BitVec.eq_of_toNat_eq hh) h
  case h_16 => exact encode_of_decodeF (opH_eq_F fun k hk => by interval_cases k <;> assumption) h

/-- Settles O2: `encode_of_decodeWord`, by the arms of the decoder. -/
theorem encodeInvertsDecode : Obligations.EncodeInvertsDecode := fun _ _ => encode_of_decodeWord

/-! ### The unrecognized words (R96) -/

theorem opH_toNat (op : Word) : (opH op).toNat = op.toNat / 4096 := by
  have := op.isLt
  rw [opH, BitVec.extractLsb'_toNat, Nat.shiftRight_eq_div_pow]
  omega

theorem opN_toNat (op : Word) : (opN op).toNat = op.toNat % 16 := by
  rw [opN, BitVec.extractLsb'_toNat, Nat.shiftRight_zero]

theorem opKK_eq_iff (op : Word) (kk : Byte) : opKK op = kk ↔ op.toNat % 256 = kk.toNat := by
  rw [← BitVec.toNat_inj, opKK, BitVec.extractLsb'_toNat, Nat.shiftRight_zero]

theorem decode0_error_iff (op : Word) :
    (∃ e, decode0 op = .error e) ↔ op.toNat ≠ 0x0000 ∧ op.toNat ≠ 0x00E0 ∧ op.toNat ≠ 0x00EE := by
  have hw : ∀ w : Word, op = w ↔ op.toNat = w.toNat := fun w => BitVec.toNat_inj.symm
  unfold decode0
  simp only [hw]
  split_ifs <;> simp_all

theorem decode8_error_iff (op : Word) :
    (∃ e, decode8 op = .error e) ↔ op.toNat % 16 ∈ [0x8, 0x9, 0xA, 0xB, 0xC, 0xD, 0xF] := by
  have hlt : op.toNat % 16 < 16 := Nat.mod_lt _ (by decide)
  unfold decode8
  rw [opN_toNat]
  generalize op.toNat % 16 = n at hlt
  interval_cases n <;> simp

theorem decodeE_error_iff (op : Word) : (∃ e, decodeE op = .error e) ↔ op.toNat % 256 ∉ [0x9E, 0xA1] := by
  unfold decodeE
  simp only [opKK_eq_iff]
  split_ifs <;> simp_all

theorem decodeF_error_iff (op : Word) :
    (∃ e, decodeF op = .error e) ↔ op.toNat % 256 ∉ [0x07, 0x0A, 0x15, 0x18, 0x1E, 0x29, 0x33, 0x55, 0x65] := by
  unfold decodeF
  simp only [opKK_eq_iff]
  split_ifs <;> simp_all

/-- The words 0x5xyn and 0x9xyn are unrecognized but for `n = 0`. -/
theorem error_unless_opN_zero_iff (op : Word) (i : Instr) (e : DecodeError) :
    (∃ e', (if opN op = 0#4 then .ok i else .error e : Except DecodeError Instr) = .error e') ↔ op.toNat % 16 ≠ 0 := by
  have hn : opN op = 0#4 ↔ op.toNat % 16 = 0 := by rw [← BitVec.toNat_inj, opN_toNat]; rfl
  split_ifs with hz
  · simp [hn.1 hz]
  · simpa using mt hn.2 hz

/-- Settles O3: by the sixteen major opcodes; ten of them decode whatever follows, and each other one is unrecognized as the
lemma of its minor decoder says. -/
theorem unrecognizedWordsAreTheSixGroups : Obligations.UnrecognizedWordsAreTheSixGroups := by
  intro op
  have hlt : op.toNat / 4096 < 16 := by have := op.isLt; omega
  unfold decodeWord
  rw [opH_toNat]
  generalize op.toNat / 4096 = h at hlt
  interval_cases h <;>
    simp [decode0_error_iff, error_unless_opN_zero_iff, decode8_error_iff, decodeE_error_iff, decodeF_error_iff]

/-! ### The table of R93 -/

/-- A word that selects the row decodes to the row's instruction. -/
def OpcodeRow.Decodes (row : OpcodeRow) : Prop :=
  ∀ op, row.selects op → ∃ i, decodeWord op = .ok i ∧ i.mnemonic = row.mnemonic

/-- A row with a mask that leaves no field free. -/
theorem OpcodeRow.Decodes.of_word {name : String} (i : Instr) (hm : i.mnemonic = name := by rfl) :
    OpcodeRow.Decodes ⟨name, encode i, 0xFFFF#16⟩ := by
  intro op hs
  have hop : op = encode i := BitVec.and_allOnes.symm.trans hs
  exact ⟨i, hop ▸ decodeWord_encode i, hm⟩

/-- The mask 0xF000 looks at the major opcode alone (R92). -/
theorem opH_of_mask {op : Word} {h : Nibble} (hs : op &&& 0xF000#16 = encA h 0#12) : opH op = h := by
  have hmask := Laws.mask_encA (opH op) (opNNN op)
  rw [encA_fields] at hmask
  simpa using congrArg opH (hmask.symm.trans hs)

/-- A row that fixes the major opcode alone: `f` reads an instruction off the fields of the word. -/
theorem OpcodeRow.Decodes.of_encA {name : String} (h : Nibble) (f : Word → Instr)
    (he : ∀ op, opH op = h → encode (f op) = op) (hm : ∀ op, (f op).mnemonic = name := by intros; rfl) :
    OpcodeRow.Decodes ⟨name, encA h 0#12, 0xF000#16⟩ := by
  intro op hs
  exact ⟨f op, by rw [← decodeWord_encode, he op (opH_of_mask hs)], hm op⟩

/-- A row whose mask leaves the field `x` free. -/
theorem OpcodeRow.Decodes.of_encX {name : String} (h : Nibble) (kk : Byte) (f : RegIdx → Instr)
    (he : ∀ x, encode (f x) = encXK h x kk := by intros; rfl)
    (hm : ∀ x, (f x).mnemonic = name := by intros; rfl) :
    OpcodeRow.Decodes ⟨name, encXK h 0#4 kk, 0xF0FF#16⟩ := by
  intro op hs
  have hmask := Laws.mask_encX (opH op) (opX op) (opKK op)
  rw [encXK_fields] at hmask
  have hfields := hmask.symm.trans hs
  have hh : opH op = h := by simpa using congrArg opH hfields
  have hk : opKK op = kk := by simpa using congrArg opKK hfields
  exact ⟨f (opX op), by rw [← decodeWord_encode, he, encXK_opX hh hk], hm _⟩

/-- A row whose mask leaves the fields `x` and `y` free. -/
theorem OpcodeRow.Decodes.of_encXY {name : String} (h n : Nibble) (f : RegIdx → RegIdx → Instr)
    (he : ∀ x y, encode (f x y) = encXYN h x y n := by intros; rfl)
    (hm : ∀ x y, (f x y).mnemonic = name := by intros; rfl) :
    OpcodeRow.Decodes ⟨name, encXYN h 0#4 0#4 n, 0xF00F#16⟩ := by
  intro op hs
  have hmask := Laws.mask_encXY (opH op) (opX op) (opY op) (opN op)
  rw [encXYN_fields] at hmask
  have hfields := hmask.symm.trans hs
  have hh : opH op = h := by simpa using congrArg opH hfields
  have hn : opN op = n := by simpa using congrArg opN hfields
  exact ⟨f (opX op) (opY op), by rw [← decodeWord_encode, he, encXYN_opX_opY hh hn], hm _ _⟩

theorem rowsW_decode : ∀ row ∈ rowsW, row.Decodes := by
  simp only [rowsW, List.forall_mem_cons]
  exact ⟨.of_word .halt, .of_word .cls, .of_word .ret, List.forall_mem_nil _⟩

theorem rowsA_decode : ∀ row ∈ rowsA, row.Decodes := by
  simp only [rowsA, List.forall_mem_cons]
  exact ⟨.of_encA 0x1 (fun op => .jp (opNNN op)) fun _ => encA_opNNN,
    .of_encA 0x2 (fun op => .call (opNNN op)) fun _ => encA_opNNN,
    .of_encA 0xA (fun op => .ldI (opNNN op)) fun _ => encA_opNNN,
    .of_encA 0xB (fun op => .jpV0 (opNNN op)) fun _ => encA_opNNN, List.forall_mem_nil _⟩

theorem rowsXK_decode : ∀ row ∈ rowsXK, row.Decodes := by
  simp only [rowsXK, List.forall_mem_cons]
  exact ⟨.of_encA 0x3 (fun op => .seImm (opX op) (opKK op)) fun _ => encXK_opX_opKK,
    .of_encA 0x4 (fun op => .sneImm (opX op) (opKK op)) fun _ => encXK_opX_opKK,
    .of_encA 0x6 (fun op => .ldImm (opX op) (opKK op)) fun _ => encXK_opX_opKK,
    .of_encA 0x7 (fun op => .addImm (opX op) (opKK op)) fun _ => encXK_opX_opKK,
    .of_encA 0xC (fun op => .rnd (opX op) (opKK op)) fun _ => encXK_opX_opKK,
    .of_encA 0xD (fun op => .drw (opX op) (opY op) (opN op)) fun _ hh => encXYN_opX_opY hh rfl, List.forall_mem_nil _⟩

theorem rowsXY_decode : ∀ row ∈ rowsXY, row.Decodes := by
  simp only [rowsXY, List.forall_mem_append, List.forall_mem_cons]
  exact ⟨⟨.of_encXY 0x5 0x0 .seReg, .of_encXY 0x8 0x0 .ldReg, .of_encXY 0x8 0x1 .orReg, .of_encXY 0x8 0x2 .andReg,
      .of_encXY 0x8 0x3 .xorReg, .of_encXY 0x8 0x4 .addReg, List.forall_mem_nil _⟩,
    .of_encXY 0x8 0x5 .subReg, .of_encXY 0x8 0x6 .shr, .of_encXY 0x8 0x7 .subnReg, .of_encXY 0x8 0xE .shl,
    .of_encXY 0x9 0x0 .sneReg, List.forall_mem_nil _⟩

theorem rowsX_decode : ∀ row ∈ rowsX, row.Decodes := by
  simp only [rowsX, List.forall_mem_append, List.forall_mem_cons]
  exact ⟨⟨.of_encX 0xE 0x9E .skp, .of_encX 0xE 0xA1 .sknp, .of_encX 0xF 0x07 .ldVxDT, .of_encX 0xF 0x0A .ldVxK,
      .of_encX 0xF 0x15 .ldDTVx, .of_encX 0xF 0x18 .ldSTVx, List.forall_mem_nil _⟩,
    .of_encX 0xF 0x1E .addIVx, .of_encX 0xF 0x29 .ldF, .of_encX 0xF 0x33 .ldB, .of_encX 0xF 0x55 .storeRegs,
    .of_encX 0xF 0x65 .loadRegs, List.forall_mem_nil _⟩

theorem opcodeTable_decodes : ∀ row ∈ opcodeTable, row.Decodes := by
  simp only [opcodeTable, List.forall_mem_append]
  exact ⟨⟨⟨⟨rowsW_decode, rowsA_decode⟩, rowsXK_decode⟩, rowsXY_decode⟩, rowsX_decode⟩

/-- The opcode of an instruction selects the row of its mnemonic. -/
theorem encode_selects_row (i : Instr) : Laws.EncodeSelectsRow.Statement i := by
  cases i with
  | halt => exact Laws.EncodeSelectsRow.halt
  | cls => exact Laws.EncodeSelectsRow.cls
  | ret => exact Laws.EncodeSelectsRow.ret
  | jp nnn => exact Laws.EncodeSelectsRow.jp nnn
  | call nnn => exact Laws.EncodeSelectsRow.call nnn
  | seImm x kk => exact Laws.EncodeSelectsRow.seImm x kk
  | sneImm x kk => exact Laws.EncodeSelectsRow.sneImm x kk
  | seReg x y => exact Laws.EncodeSelectsRow.seReg x y
  | ldImm x kk => exact Laws.EncodeSelectsRow.ldImm x kk
  | addImm x kk => exact Laws.EncodeSelectsRow.addImm x kk
  | ldReg x y => exact Laws.EncodeSelectsRow.ldReg x y
  | orReg x y => exact Laws.EncodeSelectsRow.orReg x y
  | andReg x y => exact Laws.EncodeSelectsRow.andReg x y
  | xorReg x y => exact Laws.EncodeSelectsRow.xorReg x y
  | addReg x y => exact Laws.EncodeSelectsRow.addReg x y
  | subReg x y => exact Laws.EncodeSelectsRow.subReg x y
  | shr x y => exact Laws.EncodeSelectsRow.shr x y
  | subnReg x y => exact Laws.EncodeSelectsRow.subnReg x y
  | shl x y => exact Laws.EncodeSelectsRow.shl x y
  | sneReg x y => exact Laws.EncodeSelectsRow.sneReg x y
  | ldI nnn => exact Laws.EncodeSelectsRow.ldI nnn
  | jpV0 nnn => exact Laws.EncodeSelectsRow.jpV0 nnn
  | rnd x kk => exact Laws.EncodeSelectsRow.rnd x kk
  | drw x y n => exact Laws.EncodeSelectsRow.drw x y n
  | skp x => exact Laws.EncodeSelectsRow.skp x
  | sknp x => exact Laws.EncodeSelectsRow.sknp x
  | ldVxDT x => exact Laws.EncodeSelectsRow.ldVxDT x
  | ldVxK x => exact Laws.EncodeSelectsRow.ldVxK x
  | ldDTVx x => exact Laws.EncodeSelectsRow.ldDTVx x
  | ldSTVx x => exact Laws.EncodeSelectsRow.ldSTVx x
  | addIVx x => exact Laws.EncodeSelectsRow.addIVx x
  | ldF x => exact Laws.EncodeSelectsRow.ldF x
  | ldB x => exact Laws.EncodeSelectsRow.ldB x
  | storeRegs x => exact Laws.EncodeSelectsRow.storeRegs x
  | loadRegs x => exact Laws.EncodeSelectsRow.loadRegs x

/-- Two rows that disagree where both masks look share no word. -/
theorem OpcodeRow.disjoint_of_patterns {a b : OpcodeRow} (h : a.pattern &&& b.mask ≠ b.pattern &&& a.mask) :
    ∀ op, ¬ (a.selects op ∧ b.selects op) := by
  rintro op ⟨ha, hb⟩
  refine h ?_
  rw [← ha, ← hb, BitVec.and_assoc, BitVec.and_assoc, BitVec.and_comm a.mask]

/-- Settles O4: the rows disagree in pairs on their common literal digits; a row's words decode by `opcodeTable_decodes`; a
word that decodes is its instruction's opcode, which selects the row by `encode_selects_row`. -/
theorem opcodeTableDecidesDecoding : Obligations.OpcodeTableDecidesDecoding := by
  have hdisjoint : opcodeTable.Pairwise fun a b => a.pattern &&& b.mask ≠ b.pattern &&& a.mask := by decide
  refine ⟨rfl, hdisjoint.imp OpcodeRow.disjoint_of_patterns, fun op row hrow => opcodeTable_decodes row hrow op, ?_⟩
  intro op i h
  exact encode_of_decodeWord h ▸ encode_selects_row i

/-- Settles O5: each recognized word is written as the opcode of its instruction. -/
theorem wordsOfTheSpecDecode : Obligations.WordsOfTheSpecDecode :=
  ⟨decodeWord_encode .halt, decodeWord_encode .ret, decodeWord_encode (.jp 0x234), decodeWord_encode (.seImm 3 0x2A),
    decodeWord_encode (.shr 0xA 0xB), decodeWord_encode (.ldI 0x2F0), decodeWord_encode (.drw 1 2 2),
    decodeWord_encode (.sknp 2), decodeWord_encode (.storeRegs 2), by decide, by decide⟩

end Sys2Proof
end

section
/-! What each instruction with a check leaves, on either side of the check (spec/40_flow.md section 2, spec/42_index_memory.md
section 3, spec/43_display.md section 3, spec/60_exceptions.md section 1). -/

namespace Sys2Proof.Machine

/-! ### The call stack -/

theorem exec_ret_pops {s : State} (h : 0 < s.SP.val) :
    exec .ret s = .next { s with pc := s.STACK[s.SP.val - 1]'(by omega), SP := ⟨s.SP.val - 1, by omega⟩ } := by
  rw [exec, execRet, State.pop_of_pos h]
  rfl

theorem exec_ret_underflows {s : State} (h : s.SP.val = 0) :
    exec .ret s = .next (s.raise .stackUnderflow .ret none) := by
  rw [exec, execRet, State.pop_empty h]

theorem exec_call_pushes {s : State} (h : s.SP.val < 16) (nnn : Addr12) :
    exec (.call nnn) s = .next { s with
      pc := nnn.toNat, STACK := s.STACK.set s.SP.val s.pc h, SP := ⟨s.SP.val + 1, Nat.succ_lt_succ h⟩ } := by
  rw [exec, execCall, State.push_of_lt h]
  rfl

theorem exec_call_overflows {s : State} (h : s.SP.val = 16) (nnn : Addr12) :
    exec (.call nnn) s = .next (s.raise .stackOverflow (.call nnn) none) := by
  rw [exec, execCall, State.push_full h]

/-- Settles O29: the two rules of RET, one per outcome of the pop. -/
theorem returnPopsIntoPc : Obligations.ReturnPopsIntoPc := by
  intro s
  exact ⟨fun h => ⟨_, exec_ret_pops h, rfl, rfl, rfl⟩, exec_ret_underflows⟩

/-- Settles O30: the two rules of CALL, one per outcome of the push. -/
theorem callPushesTheReturnAddress : Obligations.CallPushesTheReturnAddress := by
  intro s nnn
  refine ⟨fun h => ⟨_, exec_call_pushes h nnn, rfl, rfl, ?top, ?others, rfl⟩, fun h => ?full⟩
  case top => exact Vector.getElem_set_self h
  case others => exact fun j hj hne => Vector.getElem_set_ne h hj hne.symm
  case full =>
    have hword : encode (.call nnn) = BitVec.ofNat 16 (0x2000 + nnn.toNat) := by
      apply BitVec.eq_of_toNat_eq
      have := nnn.isLt
      rw [encode, encA_toNat]
      show 4096 * 2 + nnn.toNat = (0x2000 + nnn.toNat) % 2 ^ 16
      omega
    rw [exec_call_overflows h, ← hword]
    rfl

/-- Settles O31: the return pops the slot that the call pushed. -/
theorem returnUndoesCall : Obligations.ReturnUndoesCall := by
  intro s t u w nnn hroom hcall hSP hSTACK hret
  rw [exec_call_pushes hroom] at hcall
  cases hcall
  have hSP : u.SP.val = s.SP.val + 1 := congrArg Fin.val hSP
  rw [exec_ret_pops (by omega)] at hret
  cases hret
  simp [hSP, hSTACK]

/-! ### The range checks -/

theorem exec_ldB_inside {s : State} (h : s.I + 3 ≤ 4096) (x : RegIdx) :
    exec (.ldB x) s = .next (s.writeBytes s.I (decimalDigits (s.reg x))) := by
  rw [exec, execLdB, State.pastTop_eq_false.2 (.inr h)]
  rfl

theorem exec_ldB_past {s : State} (h : 4093 < s.I) (x : RegIdx) :
    exec (.ldB x) s = .next (s.raiseMemIndex (.ldB x)) := by
  rw [exec, execLdB, State.pastTop_eq_true.2 ⟨by decide, by omega⟩]
  rfl

theorem exec_storeRegs_inside {s : State} {x : RegIdx} (h : s.I + x.toNat ≤ 4095) :
    exec (.storeRegs x) s = .next (s.writeBytes s.I (s.regsUpTo x)) := by
  rw [exec, execStoreRegs, State.pastTop_eq_false.2 (.inr (by omega))]
  rfl

theorem exec_storeRegs_past {s : State} {x : RegIdx} (h : 4095 < s.I + x.toNat) :
    exec (.storeRegs x) s = .next (s.raiseMemIndex (.storeRegs x)) := by
  rw [exec, execStoreRegs, State.pastTop_eq_true.2 ⟨by omega, by omega⟩]
  rfl

theorem exec_loadRegs_inside {s : State} {x : RegIdx} (h : s.I + x.toNat ≤ 4095) :
    exec (.loadRegs x) s = .next (s.loadRegsUpTo x) := by
  rw [exec, execLoadRegs, State.pastTop_eq_false.2 (.inr (by omega))]
  rfl

theorem exec_loadRegs_past {s : State} {x : RegIdx} (h : 4095 < s.I + x.toNat) :
    exec (.loadRegs x) s = .next (s.raiseMemIndex (.loadRegs x)) := by
  rw [exec, execLoadRegs, State.pastTop_eq_true.2 ⟨by omega, by omega⟩]
  rfl

theorem exec_drw_past {s : State} {n : Nibble} (h : 0 < n.toNat ∧ 4096 < s.I + n.toNat) (x y : RegIdx) :
    exec (.drw x y n) s = .next (s.raiseMemIndex (.drw x y n)) := by
  rw [exec, execDrw, State.pastTop_eq_true.2 h]
  rfl

/-- The sprite of a draw that does not fault lies in memory, or has no row. -/
theorem drw_inside_of_not_faultsIn {s : State} {x y : RegIdx} {n : Nibble} (h : ¬ faultsIn (.drw x y n) s) :
    n = 0#4 ∨ s.I + n.toNat ≤ 4096 := by
  rcases Nat.eq_zero_or_pos n.toNat with hz | hp
  · exact .inl (BitVec.eq_of_toNat_eq hz)
  · exact .inr (Nat.le_of_not_lt fun hl => h ⟨hp, hl⟩)

/-- Settles O28: the `past` rule of each memory instruction; the three that set `I` have no check. -/
theorem memoryIndexFaults : Obligations.MemoryIndexFaults := by
  refine ⟨?faults, ?sets⟩
  case faults =>
    rintro s i (⟨x, rfl, h⟩ | ⟨x, rfl | rfl, h⟩ | ⟨x, y, n, rfl, h⟩)
    · exact exec_ldB_past h x
    · exact exec_storeRegs_past h
    · exact exec_loadRegs_past h
    · exact exec_drw_past h x y
  case sets =>
    rintro s nnn x i (rfl | rfl | rfl) <;> exact ⟨_, rfl, rfl, rfl⟩

/-- Settles O33: the target of JP V0 is a sum of numbers, which `State.indexedTarget_le` bounds. -/
theorem indexedJumpNeverWraps : Obligations.IndexedJumpNeverWraps := by
  intro s nnn
  exact ⟨s.setPc (s.indexedTarget nnn), rfl, rfl, s.indexedTarget_le nnn, rfl⟩

end Sys2Proof.Machine
end

section
/-! Invariants of every step: what the outside world leaves alone, and what the execute phase does to the streams, the run
state, the screen, and the registers of parametric width. -/

namespace Sys2Proof.Machine

/-! ### What no outside step and no turn touches -/

/-- All of the state but the general registers, the timers, the run state and the outside world itself. -/
structure CoreKept (s t : State) : Prop where
  pc : t.pc = s.pc
  I : t.I = s.I
  SP : t.SP = s.SP
  STACK : t.STACK = s.STACK
  MEM : t.MEM = s.MEM
  FB : t.FB = s.FB
  FR : t.FR = s.FR
  EV : t.EV = s.EV
  LOG : t.LOG = s.LOG
  LOADPTR : t.LOADPTR = s.LOADPTR
  cfg : t.cfg = s.cfg

theorem EnvOnly.coreKept {s s0 : State} (h : EnvOnly s s0) : CoreKept s s0 := by
  rw [h]
  constructor <;> rfl

theorem outsideStep_coreKept (s : State) (e : OutsideStep) : CoreKept s (s.outsideStep e) := by
  rcases outsideStep_cases s e with ⟨x, k, -, -, h⟩ | ⟨-, -, h⟩ | ⟨-, -, h⟩ | h <;> rw [h] <;> constructor <;> rfl

/-- An unrecognized word is a fault, or a line in the log (spec/60_exceptions.md R226, R227). -/
theorem State.invalidOpcode_cases (s : State) (a : Nat) (op : Word) :
    (∃ r, s.invalidOpcode a op = s.enterFault r) ∨ s.invalidOpcode a op = { s with LOG := s.LOG ++ [(a, op)] } := by
  unfold State.invalidOpcode
  split
  · exact .inl ⟨_, rfl⟩
  · exact .inr rfl

/-- An invariant that speaks of the core's own state, and not of `pc`, is kept by every step when every fault and every
instruction keeps it. -/
theorem step_keeps_core {Inv : State → Prop} (hcore : ∀ s t, CoreKept s t → Inv s → Inv t)
    (hpc : ∀ s a, Inv s → Inv (s.setPc a)) (hfault : ∀ s r, Inv s → Inv (s.enterFault r))
    (hlog : ∀ s l, Inv s → Inv { s with LOG := s.LOG ++ [l] })
    (hexec : ∀ i s t, Inv s → exec i s = .next t → Inv t) {s t : State} (hs : Inv s) (h : step s = .next t) : Inv t := by
  refine step_keeps (fun s s0 h0 => hcore s s0 h0.coreKept) hpc (fun s e => hcore _ _ (outsideStep_coreKept s e))
    (fun s _ => hfault s _) (fun s a op _ hi => ?_) (fun i s t _ => hexec i s t) hs h
  rcases s.invalidOpcode_cases a op with ⟨r, e⟩ | e <;> rw [e]
  · exact hfault s r hi
  · exact hlog s _ hi

/-! ### Canonical forms -/

theorem exec_keeps_canonical {i : Instr} {s t : State} (hs : s.canonical) (h : exec i s = .next t) : t.canonical := by
  obtain ⟨hm, hf⟩ := hs
  cases exec_cases h with
  | quiet _ hq _ => exact ⟨by rw [hq.mem, hq.cfg]; exact hm, by rw [hq.fb, hq.cfg]; exact hf⟩
  | fault r _ => exact ⟨hm, hf⟩
  | store bs hin _ =>
    refine ⟨?_, ?_⟩
    · rw [State.writeBytes_cfg]; exact State.writeBytes_keeps_wf hm hin
    · rw [State.writeBytes_cfg, State.writeBytes_FB]; exact hf
  | draw x y n _ _ => exact ⟨hm, Blit.run_keeps_wf (t := ⟨s.FB, s.EV, false⟩) hf (s.drwPixels_inside x y n)⟩
  | clear _ => exact ⟨hm, List.Pairwise.nil, by simp⟩
  | halt _ => exact ⟨hm, hf⟩
  | wait x _ => exact ⟨hm, hf⟩

/-- Settles O16: stores stay below 4096 by their range check, and drawn pixels are wrapped into the framebuffer
(`exec_keeps_canonical`); nothing else writes memory or screen. -/
theorem stepKeepsCanonicalForms : Obligations.StepKeepsCanonicalForms := by
  intro s t hs h
  refine step_keeps_core (Inv := State.canonical) (fun s t hk hi => ?_) (fun _ _ => id) (fun _ _ => id) (fun _ _ => id)
    (fun i s t => exec_keeps_canonical) hs h
  rw [State.canonical, hk.MEM, hk.FB, hk.cfg]
  exact hi

/-! ### The screen and its events -/

/-- An event appended to the stream acts on the pixel last. -/
theorem pixelFromEvents_append_one (ev : List Event) (e : Event) (r c : Nat) :
    pixelFromEvents (ev ++ [e]) r c = pixelAfterEvent r c (pixelFromEvents ev r c) e := by
  rw [pixelFromEvents, List.foldl_append]
  rfl

/-- The blit loop keeps screen and stream in step: each pixel it sets is the event it emits. -/
theorem Blit.run_get_eq_pixelFromEvents {t : Blit} (ps : List (Nat × Nat))
    (h : ∀ r c, Fb.get t.fb r c = pixelFromEvents t.ev r c) (r c : Nat) :
    Fb.get (t.run ps).fb r c = pixelFromEvents (t.run ps).ev r c := by
  induction ps generalizing t with
  | nil => exact h r c
  | cons p ps ih =>
    refine ih (t := t.pixel p) fun r' c' => ?_
    rw [Blit.pixel, Fb.get_set, pixelFromEvents_append_one, pixelAfterEvent, h r' c']
    simp only [Prod.mk.injEq, eq_comm]

theorem exec_keeps_screenMatchesEvents {i : Instr} {s t : State} (hs : s.screenMatchesEvents) (h : exec i s = .next t) :
    t.screenMatchesEvents := by
  intro r c
  cases exec_cases h with
  | quiet _ hq _ => rw [State.pixel_congr hq.fb, hq.ev]; exact hs r c
  | fault _ _ => exact hs r c
  | store bs _ _ => rw [State.pixel_congr (State.writeBytes_FB s _ _), State.writeBytes_EV]; exact hs r c
  | draw x y n _ _ => exact Blit.run_get_eq_pixelFromEvents (t := ⟨s.FB, s.EV, false⟩) _ hs r c
  | clear _ => exact (pixelFromEvents_append_one s.EV .clear r c).symm
  | halt _ => rw [State.setRS_EV, State.emit_EV, pixelFromEvents_append_one]; exact hs r c
  | wait _ _ => exact hs r c

/-- Settles O17: only the blit loop and CLS touch the screen, and each emits what it does
(`Blit.run_get_eq_pixelFromEvents`); a Shutdown event leaves every pixel. -/
theorem stepKeepsScreenEqualToEvents : Obligations.StepKeepsScreenEqualToEvents := by
  intro s t hs h
  refine step_keeps_core (Inv := State.screenMatchesEvents) (fun s t hk hi r c => ?_) (fun _ _ => id) (fun _ _ => id)
    (fun _ _ => id) (fun i s t => exec_keeps_screenMatchesEvents) hs h
  rw [State.pixel_congr hk.FB, hk.EV]
  exact hi r c

/-! ### The fault record and the Shutdown event, which go with the run state -/

/-- An outside step never enters or leaves HALTED or FAULTED. -/
theorem outsideStep_RS (s : State) (e : OutsideStep) :
    (s.outsideStep e).RS = s.RS ∨
      (s.RS ≠ .halted ∧ s.RS ≠ .faulted ∧ (s.outsideStep e).RS ≠ .halted ∧ (s.outsideStep e).RS ≠ .faulted) := by
  rcases outsideStep_cases s e with ⟨x, k, hr, -, h⟩ | ⟨hr, -, h⟩ | ⟨-, -, h⟩ | h
  · exact .inr (by simp [h, hr])
  · exact .inr (by rcases hr with hr | ⟨x, hr⟩ <;> simp [h, hr])
  · exact .inl (by rw [h, State.countDown_RS])
  · exact .inl (by rw [h])

theorem outsideStep_RS_halted_iff (s : State) (e : OutsideStep) : (s.outsideStep e).RS = .halted ↔ s.RS = .halted := by
  rcases outsideStep_RS s e with h | ⟨hh, -, hh', -⟩
  · rw [h]
  · simp [hh, hh']

theorem outsideStep_RS_faulted_iff (s : State) (e : OutsideStep) : (s.outsideStep e).RS = .faulted ↔ s.RS = .faulted := by
  rcases outsideStep_RS s e with h | ⟨-, hf, -, hf'⟩
  · rw [h]
  · simp [hf, hf']

theorem enterFault_faultRecorded (s : State) (r : FaultRecord) : (s.enterFault r).faultRecorded := by
  simp [State.faultRecorded]

theorem exec_keeps_faultRecorded {i : Instr} {s t : State} (hs : s.faultRecorded) (hr : s.RS = .running)
    (h : exec i s = .next t) : t.faultRecorded := by
  have hFR : s.FR = none := by
    by_contra hne
    exact absurd (hr.symm.trans (hs.1 hne)) (by decide)
  cases exec_cases h with
  | quiet _ hq _ => simp [State.faultRecorded, hq.fr, hq.rs, hFR, hr]
  | fault r _ => exact enterFault_faultRecorded s r
  | store | draw | clear | halt | wait => simp [State.faultRecorded, hFR, hr]

/-- Settles O18: a fault fills the record as it enters FAULTED; from RUNNING, where it is empty, nothing else writes either;
the outside world neither enters nor leaves FAULTED. -/
theorem stepKeepsFaultRecordExact : Obligations.StepKeepsFaultRecordExact := by
  intro s t hs h
  refine step_keeps (Inv := State.faultRecorded) (fun s s0 h0 hi => ?_) (fun _ _ => id) (fun s e hi => ?_)
    (fun s _ _ => enterFault_faultRecorded s _) (fun s a op hr hi => ?_)
    (fun i s t hr hi => exec_keeps_faultRecorded hi hr) hs h
  · rw [h0]; exact hi
  · rw [State.faultRecorded, (outsideStep_coreKept s e).FR, outsideStep_RS_faulted_iff]; exact hi
  · rcases s.invalidOpcode_cases a op with ⟨r, e⟩ | e <;> rw [e]
    · exact enterFault_faultRecorded s r
    · exact hi

theorem exec_keeps_shutdownOnlyLast {i : Instr} {s t : State} (hs : s.shutdownOnlyLast) (hr : s.RS = .running)
    (h : exec i s = .next t) : t.shutdownOnlyLast := by
  have hEV : Event.shutdown ∉ s.EV := by simpa [State.shutdownOnlyLast, hr] using hs
  cases exec_cases h with
  | quiet _ hq _ => simpa [State.shutdownOnlyLast, hq.ev, hq.rs, hr] using hEV
  | draw x y n _ _ =>
    obtain ⟨es, he, hdraws⟩ := Blit.run_ev_append ⟨s.FB, s.EV, false⟩ (s.drwPixels x y n)
    have hes : Event.shutdown ∉ es := fun hm => by obtain ⟨p, -, b, hb⟩ := hdraws _ hm; cases hb
    simp [State.shutdownOnlyLast, hr, he, hEV, hes]
  | halt _ => exact ⟨s.EV, rfl, hEV⟩
  | fault | store | clear | wait => simp [State.shutdownOnlyLast, hr, hEV]

/-- Settles O19: from RUNNING the stream holds no Shutdown, HALT appends the one it ends with, and no other instruction, no
fault and no outside step emits it or enters HALTED. -/
theorem stepKeepsShutdownLast : Obligations.StepKeepsShutdownLast := by
  intro s t hs h
  refine step_keeps (Inv := State.shutdownOnlyLast) (fun s s0 h0 hi => ?_) (fun _ _ => id) (fun s e hi => ?_)
    (fun s hr hi => ?_) (fun s a op hr hi => ?_) (fun i s t hr hi => exec_keeps_shutdownOnlyLast hi hr) hs h
  · rw [h0]; exact hi
  · simp only [State.shutdownOnlyLast, (outsideStep_coreKept s e).EV, outsideStep_RS_halted_iff]; exact hi
  · simpa [State.shutdownOnlyLast, State.raisePcOutOfBounds, hr] using hi
  · rcases s.invalidOpcode_cases a op with ⟨r, e⟩ | e <;> rw [e]
    · simpa [State.shutdownOnlyLast, hr] using hi
    · exact hi

end Sys2Proof.Machine
end

section
/-! Register widths, the streams, and when a step exists or an instruction faults. -/

namespace Sys2Proof.Machine

/-! ### The registers of parametric width (spec/10_state.md R24, R28, R30) -/

/-- An instruction with a range check faults, which leaves all but the record and the run state, or takes effect. -/
theorem rangeCheck_cases {i : Instr} {s t u : State} {bad : Bool}
    (h : (if bad then .next (s.raiseMemIndex i) else .next u : Result) = .next t) : t = s.raiseMemIndex i ∨ t = u := by
  cases bad <;> cases h
  · exact .inr rfl
  · exact .inl rfl

theorem exec_ret_cases {s t : State} (h : exec .ret s = .next t) :
    (s.SP.val = 0 ∧ t = s.raise .stackUnderflow .ret none) ∨
    ∃ h : 0 < s.SP.val,
      t = { s with pc := s.STACK[s.SP.val - 1]'(by omega), SP := ⟨s.SP.val - 1, by omega⟩ } := by
  by_cases hsp : 0 < s.SP.val
  · rw [exec_ret_pops hsp] at h
    cases h
    exact .inr ⟨hsp, rfl⟩
  · rw [exec_ret_underflows (Nat.eq_zero_of_not_pos hsp)] at h
    cases h
    exact .inl ⟨Nat.eq_zero_of_not_pos hsp, rfl⟩

theorem exec_call_cases {nnn : Addr12} {s t : State} (h : exec (.call nnn) s = .next t) :
    (s.SP.val = 16 ∧ t = s.raise .stackOverflow (.call nnn) none) ∨
    ∃ h : s.SP.val < 16, t = { s with
      pc := nnn.toNat, STACK := s.STACK.set s.SP.val s.pc h, SP := ⟨s.SP.val + 1, Nat.succ_lt_succ h⟩ } := by
  by_cases hsp : s.SP.val < 16
  · rw [exec_call_pushes hsp] at h
    cases h
    exact .inr ⟨hsp, rfl⟩
  · have hfull : s.SP.val = 16 := by omega
    rw [exec_call_overflows hfull] at h
    cases h
    exact .inl ⟨hfull, rfl⟩

/-- What an instruction does to `I` and to the stack's entries. -/
inductive WideChange (s t : State) : Prop
  | kept (hI : t.I = s.I) (hS : t.STACK = s.STACK)
  /-- `LD I`, `ADD I` or `LD F` -/
  | index (hI : t.I < 2 ^ s.cfg.iWidth.val) (hS : t.STACK = s.STACK)
  /-- a call that found room puts `pc` into the first free entry -/
  | pushed (hI : t.I = s.I) (hsp : s.SP.val < 16) (hS : t.STACK = s.STACK.set s.SP.val s.pc hsp)

theorem WideChange.of_skipIf {s u : State} (hI : u.I = s.I) (hS : u.STACK = s.STACK) (c : Bool) :
    WideChange s (u.skipIf c) := .kept ((u.skipIf_I c).trans hI) ((u.skipIf_STACK c).trans hS)

theorem WideChange.of_rangeCheck {i : Instr} {s t u : State} {bad : Bool} (hI : u.I = s.I) (hS : u.STACK = s.STACK)
    (h : (if bad then .next (s.raiseMemIndex i) else .next u : Result) = .next t) : WideChange s t := by
  rcases rangeCheck_cases h with rfl | rfl
  · exact .kept rfl rfl
  · exact .kept hI hS

theorem exec_wideChange {i : Instr} {s t : State} (h : exec i s = .next t) : WideChange s t := by
  have hw := Config.iWidth_ge s.cfg
  cases i with
  | ldI nnn => cases h; exact .index (Nat.lt_of_lt_of_le (addrOperand_lt nnn) hw) rfl
  | addIVx x => cases h; exact .index (s.indexPlus_lt x) rfl
  | ldF x => cases h; exact .index (Nat.lt_of_le_of_lt (s.glyphAddr_le x) (by omega)) rfl
  | ret => rcases exec_ret_cases h with ⟨-, rfl⟩ | ⟨_, rfl⟩ <;> exact .kept rfl rfl
  | call nnn =>
    rcases exec_call_cases h with ⟨-, rfl⟩ | ⟨hsp, rfl⟩
    · exact .kept rfl rfl
    · exact .pushed rfl hsp rfl
  | drw x y n => exact .of_rangeCheck (s.blit_I _) (s.blit_STACK _) h
  | loadRegs x => exact .of_rangeCheck (s.loadRegsUpTo_I x) (s.loadRegsUpTo_STACK x) h
  | ldB | storeRegs => exact .of_rangeCheck (s.writeBytes_I _ _) (s.writeBytes_STACK _ _) h
  | seImm | sneImm | seReg | sneReg => cases h; exact .of_skipIf rfl rfl _
  | skp | sknp => cases h; exact .of_skipIf s.afterKeypadQuery_I s.afterKeypadQuery_STACK _
  | rnd => cases h; exact .kept s.afterRandomDraw_I s.afterRandomDraw_STACK
  | halt | cls | jp | ldImm | addImm | ldReg | orReg | andReg | xorReg | addReg | subReg | shr | subnReg | shl | jpV0
  | ldVxDT | ldVxK | ldDTVx | ldSTVx =>
    cases h
    exact .kept rfl rfl

/-- No instruction changes the configuration, and each only appends to the two streams. -/
theorem exec_appends {i : Instr} {s t : State} (h : exec i s = .next t) :
    (∃ es, t.EV = s.EV ++ es) ∧ t.LOG = s.LOG ∧ HostKept s t := by
  cases exec_cases h with
  | quiet _ hq _ => exact ⟨⟨[], by simp [hq.ev]⟩, hq.log, hq.loadptr, hq.cfg⟩
  | fault => exact ⟨⟨[], by simp⟩, rfl, rfl, rfl⟩
  | store bs _ _ => exact ⟨⟨[], by simp⟩, s.writeBytes_LOG _ _, s.writeBytes_LOADPTR _ _, s.writeBytes_cfg _ _⟩
  | draw x y n _ _ =>
    obtain ⟨es, he, -⟩ := Blit.run_ev_append ⟨s.FB, s.EV, false⟩ (s.drwPixels x y n)
    exact ⟨⟨es, he⟩, rfl, rfl, rfl⟩
  | clear => exact ⟨⟨[.clear], rfl⟩, rfl, rfl, rfl⟩
  | halt => exact ⟨⟨[.shutdown], rfl⟩, rfl, rfl, rfl⟩
  | wait => exact ⟨⟨[], by simp⟩, rfl, rfl, rfl⟩

/-- With room for one skip, `pc`, `I` and the entries keep their widths: a target is at most 0x10FE, a popped entry has the
width of `pc`, and a call pushes `pc`. -/
theorem exec_keeps_widths {i : Instr} {s t : State} (hs : s.widthsHold) (hskip : s.pc ≤ 4096) (h : exec i s = .next t) :
    t.widthsHold := by
  obtain ⟨hpc, hI, hSTACK⟩ := hs
  obtain ⟨-, -, -, hcfg⟩ := exec_appends h
  have hw := Config.pcWidth_ge s.cfg
  rw [State.widthsHold, hcfg]
  refine ⟨?pc, ?wide⟩
  case pc =>
    cases exec_pcChange h with
    | kept hp => rw [hp]; exact hpc
    | skipped _ hp => omega
    | jumped nnn _ hp => have := nnn.isLt; omega
    | indexed nnn _ hp => have := nnn.isLt; have := (s.reg 0).isLt; omega
    | popped _ hsp hp => rw [hp]; exact hSTACK _ _
  case wide =>
    cases exec_wideChange h with
    | kept hI' hS => rw [hI', hS]; exact ⟨hI, hSTACK⟩
    | index hI' hS => rw [hS]; exact ⟨hI', hSTACK⟩
    | pushed hI' hsp hS =>
      rw [hI', hS]
      refine ⟨hI, fun j hj => ?_⟩
      rw [Vector.getElem_set]
      split
      · exact hpc
      · exact hSTACK j hj

theorem cpuStep_keeps_widths {s t : State} (hs : s.widthsHold) (h : cpuStep s = .next t) : t.widthsHold := by
  obtain ⟨hpc, hI, hSTACK⟩ := hs
  have hadvance : s.pc ≤ 4094 → (s.setPc (s.pc + 2)).widthsHold := fun hp =>
    ⟨Nat.lt_of_lt_of_le (show s.pc + 2 < 8192 by omega) (Config.pcWidth_ge s.cfg), hI, hSTACK⟩
  rcases cpuStep_cases h with ⟨-, rfl⟩ | ⟨hp, i, -, he⟩ | ⟨hp, e, -, rfl⟩
  · exact ⟨hpc, hI, hSTACK⟩
  · exact exec_keeps_widths (hadvance hp) (show s.pc + 2 ≤ 4096 by omega) he
  · rcases (s.setPc (s.pc + 2)).invalidOpcode_cases s.pc s.fetchWord with ⟨r, e⟩ | e <;> rw [e] <;> exact hadvance hp

theorem CoreKept.widthsHold {s t : State} (hk : CoreKept s t) (hs : s.widthsHold) : t.widthsHold := by
  rw [State.widthsHold, hk.pc, hk.I, hk.STACK, hk.cfg]
  exact hs

/-- Settles O20: a fetch only succeeds up to 4094, so the advance and one skip stay below the least legal width; targets are
at most 0x10FE, a popped entry has the width of `pc`, and `I` is wrapped or small (`exec_wideChange`). -/
theorem stepKeepsRegisterWidths : Obligations.StepKeepsRegisterWidths := by
  intro s t hs h
  rcases step_cases h with ⟨-, s0, ht, hc⟩ | ⟨-, s0, e, h0, rfl⟩ | ⟨-, ht⟩
  · exact cpuStep_keeps_widths (ht.envOnly.coreKept.widthsHold hs) hc
  · exact (outsideStep_coreKept s0 e).widthsHold (h0.coreKept.widthsHold hs)
  · exact ht.coreKept.widthsHold hs

/-! ### The streams -/

/-- `t` has the streams of `s`, perhaps longer, and the same configuration and loader offset. -/
def StreamsExtend (s t : State) : Prop := (∃ es, t.EV = s.EV ++ es) ∧ (∃ ls, t.LOG = s.LOG ++ ls) ∧ HostKept s t

/-- Settles O22: "extends the streams of the state the step began in" is kept by each thing a step does. -/
theorem stepOnlyAppendsToTheStreams : Obligations.StepOnlyAppendsToTheStreams := by
  intro s t h
  have hrefl : StreamsExtend s s := ⟨⟨[], by simp⟩, ⟨[], by simp⟩, rfl, rfl⟩
  refine step_keeps_core (Inv := StreamsExtend s) ?core (fun _ _ => id) (fun _ _ => id) ?log ?exec hrefl h
  case core =>
    rintro u v hk ⟨hev, hlog, hhost⟩
    exact ⟨hk.EV ▸ hev, hk.LOG ▸ hlog, hk.LOADPTR.trans hhost.1, hk.cfg.trans hhost.2⟩
  case log =>
    rintro u l ⟨hev, ⟨ls, hls⟩, hhost⟩
    exact ⟨hev, ⟨ls ++ [l], by simp [hls]⟩, hhost⟩
  case exec =>
    rintro i u v ⟨⟨es, hes⟩, hlog, hptr, hcfg⟩ he
    obtain ⟨⟨es', hes'⟩, hlog', hptr', hcfg'⟩ := exec_appends he
    exact ⟨⟨es ++ es', by simp [hes', hes]⟩, hlog' ▸ hlog, hptr'.trans hptr, hcfg'.trans hcfg⟩

/-- Settles O24: the events of each shape an instruction can have; only a draw has more than one. -/
theorem onlyTheirInstructionsEmit : Obligations.OnlyTheirInstructionsEmit := by
  intro i s t h
  cases exec_cases h with
  | quiet _ hq _ => exact ⟨[], by simp [hq.ev], by simp, by simp, by simp⟩
  | fault | store | wait => exact ⟨[], by simp, by simp, by simp, by simp⟩
  | clear hi => exact ⟨[.clear], rfl, by simp [hi], by simp, by simp⟩
  | halt hi => exact ⟨[.shutdown], rfl, by simp, by simp [hi], by simp⟩
  | draw x y n hi _ =>
    obtain ⟨es, he, hdraws⟩ := Blit.run_ev_append ⟨s.FB, s.EV, false⟩ (s.drwPixels x y n)
    refine ⟨es, he, fun hm => ?_, fun hm => ?_, fun r c b hm => ?_⟩
    · obtain ⟨p, -, b, hb⟩ := hdraws _ hm; cases hb
    · obtain ⟨p, -, b, hb⟩ := hdraws _ hm; cases hb
    · obtain ⟨p, hp, b, hb⟩ := hdraws _ hm
      cases hb
      exact ⟨⟨x, y, n, hi⟩, s.drwPixels_inside x y n p hp⟩

/-! ### When a step exists, and when an instruction faults -/

theorem cpuStep_exists (s : State) : ∃ t, cpuStep s = .next t := by
  unfold cpuStep
  split
  · exact ⟨_, rfl⟩
  · split
    · obtain ⟨t, ht, -⟩ := exec_shape ‹Instr› (s.setPc (s.pc + 2))
      exact ⟨t, ht⟩
    · exact ⟨_, rfl⟩

/-- Settles O10: the cases of a step are all in RUNNING or WAIT_KEY; there, every turn has a next state, since every
instruction has one (`exec_shape`). -/
theorem stepExistsExactlyBeforeTheEnd : Obligations.StepExistsExactlyBeforeTheEnd := by
  intro s
  refine ⟨fun ⟨t, h⟩ => ?_, fun hr => ?_⟩
  · rcases step_cases h with ⟨hr, -⟩ | ⟨hr, -⟩ | ⟨hr, -⟩
    · exact .inl hr
    · exact hr
    · exact .inr hr
  · rcases hr with hr | ⟨x, hr⟩
    · rcases hturns : s.env.turns with _ | ⟨_ | e, ts⟩
      · rw [step_of_cpuTurn hr (.inl ⟨hturns, rfl⟩)]
        exact cpuStep_exists _
      · rw [step_of_cpuTurn hr (.inr ⟨ts, hturns, rfl⟩)]
        exact cpuStep_exists _
      · exact ⟨_, step_of_outsideTurn (.inl hr) ⟨ts, hturns, rfl⟩⟩
    · obtain ⟨s0, -, h⟩ := step_of_waitKey hr
      exact ⟨_, h⟩

/-- Settles O27: of the shapes of `exec_cases` only the fault enters FAULTED, and each says on which side of the closed list
it stands. -/
theorem instructionsFaultExactlyInTheseCases : Obligations.InstructionsFaultExactlyInTheseCases := by
  intro i s t hr h
  cases exec_cases h with
  | quiet _ hq hf => simp [hq.rs, hr, hf]
  | fault r hf => simp [hf]
  | store bs _ hf => simp [hr, hf]
  | draw x y n _ hf => simp [hr, hf]
  | clear hi => simp [hr, hi, faultsIn]
  | halt hi => simp [hi, faultsIn]
  | wait x hi => simp [hi, faultsIn]

end Sys2Proof.Machine
end

section
/-! `PC_WIDTH` and `STACK_ENTRY_WIDTH` change no behaviour: every operation of a step commutes with `withPcWidth`
(spec/00_scope.md R7, decisions D2, D24). -/

namespace Sys2Proof.Machine

variable (s : State) (w : WidthFrom 13)

/-! ### The operations that are no record update by definition alone -/

theorem State.skipIf_withPcWidth (c : Bool) : (s.withPcWidth w).skipIf c = (s.skipIf c).withPcWidth w := by
  cases c <;> rfl

theorem State.afterKeypadQuery_withPcWidth :
    (s.withPcWidth w).afterKeypadQuery = s.afterKeypadQuery.withPcWidth w := by
  unfold State.afterKeypadQuery
  rw [State.withPcWidth_env]
  split <;> rfl

theorem State.afterRandomDraw_withPcWidth :
    (s.withPcWidth w).afterRandomDraw = s.afterRandomDraw.withPcWidth w := by
  unfold State.afterRandomDraw
  rw [State.withPcWidth_env]
  split <;> rfl

theorem State.writeBytes_withPcWidth (a : Nat) (bs : List Byte) :
    (s.withPcWidth w).writeBytes a bs = (s.writeBytes a bs).withPcWidth w := by
  induction bs generalizing s a with
  | nil => rfl
  | cons b bs ih => exact ih (s.writeByte a b) (a + 1)

theorem State.invalidOpcode_withPcWidth (a : Nat) (op : Word) :
    (s.withPcWidth w).invalidOpcode a op = (s.invalidOpcode a op).withPcWidth w := by
  unfold State.invalidOpcode
  rw [State.withPcWidth_cfg_invalidOpcodePolicy]
  split <;> rfl

theorem State.outsideStep_withPcWidth (e : OutsideStep) :
    (s.withPcWidth w).outsideStep e = (s.outsideStep e).withPcWidth w := by
  cases e with
  | keyPress k =>
    simp only [State.outsideStep, State.deliverKey, State.withPcWidth_RS]
    split <;> rfl
  | cancel =>
    simp only [State.outsideStep, State.cancel, State.withPcWidth_RS]
    split <;> rfl
  | tick =>
    simp only [State.outsideStep, State.tick, State.withPcWidth_RS, State.withPcWidth_cfg_timerTick]
    split <;> rfl

/-! ### Instructions and steps -/

/-- The same outcome, its next state with another `PC_WIDTH`. -/
def Result.withPcWidth (w : WidthFrom 13) (r : Result) : Result :=
  match r with
  | .next t => .next (t.withPcWidth w)
  | .fault f => .fault f
  | .refused f => .refused f

/-- An instruction with a range check commutes when its effect does: the check and the fault do not see the width. -/
theorem rangeCheck_withPcWidth {i : Instr} {u u' : State} (bad : Bool) (hu : u' = u.withPcWidth w) :
    (if bad then .next ((s.withPcWidth w).raiseMemIndex i) else .next u' : Result) =
      Result.withPcWidth w (if bad then .next (s.raiseMemIndex i) else .next u) := by
  cases bad
  · exact congrArg Host.Outcome.next hu
  · rfl

theorem exec_withPcWidth (i : Instr) : exec i (s.withPcWidth w) = Result.withPcWidth w (exec i s) := by
  cases i with
  | ret =>
    by_cases h : 0 < s.SP.val
    · rw [exec_ret_pops h, exec_ret_pops (s := s.withPcWidth w) h]; rfl
    · have h : s.SP.val = 0 := Nat.eq_zero_of_not_pos h
      rw [exec_ret_underflows h, exec_ret_underflows (s := s.withPcWidth w) h]; rfl
  | call nnn =>
    by_cases h : s.SP.val < 16
    · rw [exec_call_pushes h, exec_call_pushes (s := s.withPcWidth w) h]; rfl
    · have h : s.SP.val = 16 := by omega
      rw [exec_call_overflows h, exec_call_overflows (s := s.withPcWidth w) h]; rfl
  | seImm | sneImm | seReg | sneReg => exact congrArg Host.Outcome.next (s.skipIf_withPcWidth w _)
  | skp x | sknp x =>
    refine congrArg Host.Outcome.next (Eq.trans ?_ (s.afterKeypadQuery.skipIf_withPcWidth w _))
    rw [s.afterKeypadQuery_withPcWidth w]
    rfl
  | rnd x kk =>
    refine congrArg Host.Outcome.next ?_
    rw [s.afterRandomDraw_withPcWidth w]
    rfl
  | drw x y n => exact rangeCheck_withPcWidth s w _ rfl
  | loadRegs x => exact rangeCheck_withPcWidth s w _ rfl
  | ldB x => exact rangeCheck_withPcWidth s w _ (s.writeBytes_withPcWidth w _ _)
  | storeRegs x => exact rangeCheck_withPcWidth s w _ (s.writeBytes_withPcWidth w _ _)
  | halt | cls | jp | ldImm | addImm | ldReg | orReg | andReg | xorReg | addReg | subReg | shr | subnReg | shl | ldI | jpV0
  | ldVxDT | ldVxK | ldDTVx | ldSTVx | addIVx | ldF => rfl

theorem cpuStep_withPcWidth : cpuStep (s.withPcWidth w) = Result.withPcWidth w (cpuStep s) := by
  unfold cpuStep
  rw [State.withPcWidth_pc, show (s.withPcWidth w).fetchWord = s.fetchWord from rfl]
  split
  · rfl
  · split
    · exact exec_withPcWidth (s.setPc (s.pc + 2)) w _
    · exact congrArg Host.Outcome.next ((s.setPc (s.pc + 2)).invalidOpcode_withPcWidth w _ _)

theorem step_withPcWidth : step (s.withPcWidth w) = Result.withPcWidth w (step s) := by
  unfold step
  rw [State.withPcWidth_RS]
  split
  · unfold runningStep
    rw [State.withPcWidth_env]
    split
    · exact cpuStep_withPcWidth s w
    · exact cpuStep_withPcWidth s.dropTurn w
    · exact congrArg Host.Outcome.next (s.dropTurn.outsideStep_withPcWidth w _)
  · unfold waitStep
    rw [State.withPcWidth_env]
    split
    · split
      · rfl
      · exact congrArg Host.Outcome.next (s.countDraw.outsideStep_withPcWidth w _)
    · rfl
    · exact congrArg Host.Outcome.next (s.dropTurn.outsideStep_withPcWidth w _)
  · rfl
  · rfl
  · rfl

/-- Settles O23: `step_withPcWidth` on a step that has a next state. -/
theorem pcWidthChangesNoBehaviour : Obligations.PcWidthChangesNoBehaviour := by
  intro s t w h
  rw [step_withPcWidth, h]
  rfl

end Sys2Proof.Machine
end

section
/-! Memory transfers, the load operation and the reset contents (spec/42_index_memory.md section 3, spec/20_memory.md section 6,
spec/10_state.md section 9). -/

namespace Sys2Proof.Machine

/-! ### Stores and loads at `I` -/

theorem State.readByte_storeDigits (s : State) (v : Byte) (j : Nat) (h : j < 3) :
    (s.writeBytes s.I (decimalDigits v)).readByte (s.I + j) = (decimalDigits v)[j] :=
  s.readByte_writeBytes_inside s.I (decimalDigits v) j h

/-- Settles O42: in range, the three bytes stored are the digits, each below 256; past the top, the fault. -/
theorem decimalDigitsAreStored : Obligations.DecimalDigitsAreStored := by
  intro s x
  have hv := (s.reg x).isLt
  have hdigit := s.readByte_storeDigits (s.reg x)
  refine ⟨fun h => ⟨_, exec_ldB_inside h x, ?hundreds, ?tens, ?ones,
    s.readByte_writeBytes_outside s.I (decimalDigits (s.reg x)), s.writeBytes_I _ _⟩, fun h => ⟨_, exec_ldB_past (by omega) x, rfl, rfl, fun _ => rfl⟩⟩
  case hundreds =>
    rw [show State.readByte _ s.I = _ from hdigit 0 (by decide)]
    exact Nat.mod_eq_of_lt (show (s.reg x).toNat / 100 < 256 by omega)
  case tens =>
    rw [hdigit 1 (by decide)]
    exact Nat.mod_eq_of_lt (show (s.reg x).toNat / 10 % 10 < 256 by omega)
  case ones =>
    rw [hdigit 2 (by decide)]
    exact Nat.mod_eq_of_lt (show (s.reg x).toNat % 10 < 256 by omega)

/-- The stored block holds `V[r]` at offset `r`. -/
theorem State.readByte_storeRegs (s : State) {x r : RegIdx} (h : r.toNat ≤ x.toNat) :
    (s.writeBytes s.I (s.regsUpTo x)).readByte (s.I + r.toNat) = s.reg r := by
  rw [s.readByte_writeBytes_inside s.I _ r.toNat (by rw [State.regsUpTo_length]; omega), State.regsUpTo_getElem]
  rfl

/-- Settles O43: a byte of the stored block by `State.readByte_storeRegs`, the others as they were. -/
theorem registersAreStored : Obligations.RegistersAreStored := by
  intro s x h
  refine ⟨_, exec_storeRegs_inside h, s.writeBytes_I _ _, fun r => s.readByte_storeRegs, fun a ha => ?_⟩
  exact s.readByte_writeBytes_outside s.I _ a (by rwa [State.regsUpTo_length])

/-- Settles O44: `State.reg_loadRegsUpTo` on either side of `x`. -/
theorem registersAreLoaded : Obligations.RegistersAreLoaded := by
  intro s x h
  refine ⟨_, exec_loadRegs_inside h, s.loadRegsUpTo_I x, fun r hr => ?_, fun r hr => ?_⟩
  · rw [State.reg_loadRegsUpTo, if_pos hr]
  · rw [State.reg_loadRegsUpTo, if_neg hr]

/-- Settles O45: the load reads, at the same `I`, the block that the store left. -/
theorem loadAfterStoreRestoresRegisters : Obligations.LoadAfterStoreRestoresRegisters := by
  intro s t u w x hfit hstore hmem hI hload r hr
  rw [exec_storeRegs_inside hfit] at hstore
  cases hstore
  have hI : u.I = s.I := hI.trans (s.writeBytes_I _ _)
  rw [exec_loadRegs_inside (hI ▸ hfit)] at hload
  cases hload
  rw [State.reg_loadRegsUpTo, if_pos hr, hI, hmem, s.readByte_storeRegs hr]

/-! ### The load operation -/

/-- Settles O59: the loaded image read back (`State.readByte_withImage_inside`), and the error of the size check. -/
theorem loadAppendsTheImage : Obligations.LoadAppendsTheImage := by
  intro s bytes
  refine ⟨fun h => ⟨s.withImage bytes, State.loadProgram_of_fits h, s.readByte_withImage_inside bytes, fun a ha => ?_,
    s.withImage_LOADPTR bytes, ?_⟩, fun h => if_neg (Nat.not_le.2 h)⟩
  · rw [State.readByte_withImage, s.readByte_writeBytes_outside _ _ _ ha]
  · rw [State.withImage_eq]

/-! ### Reset -/

theorem State.readByte_resetWith (cfg : Config) (a : Nat) :
    (State.resetWith cfg).readByte a = Memory.background cfg.font a := rfl

theorem Memory.background_font {font : Font} {a : Nat} (h : a < 80) : Memory.background font a = font[a] := dif_pos h

/-- Settles O58: the fields are those written out in `resetWith`; its memory lists no byte, so it reads as the font, glyph 0
first, and as zeros above. -/
theorem resetHoldsTheseValues : Obligations.ResetHoldsTheseValues := by
  rintro cfg s rfl
  refine ⟨rfl, rfl, rfl, rfl, fun r => Vector.getElem_replicate _, rfl, fun j hj => Vector.getElem_replicate _, rfl, rfl,
    State.pixel_of_FB_nil rfl, rfl, rfl, rfl, ?glyph0, fun j hj => ?glyphs, fun a ha => ?zeros⟩
  case glyph0 =>
    have hbyte : ∀ a (h : a < 5), (State.resetWith cfg).readByte a = glyph0[a] := fun a h => by
      rw [State.readByte_resetWith, Memory.background_font (by omega), Config.font_glyph0 cfg a h]
    rw [hbyte 0 (by decide), hbyte 1 (by decide), hbyte 2 (by decide), hbyte 3 (by decide), hbyte 4 (by decide)]
    rfl
  case glyphs => rw [State.readByte_resetWith, Memory.background_font (by omega), Config.font_rest cfg j hj]
  case zeros => rw [State.readByte_resetWith, Memory.background, dif_neg (by omega)]

/-- Settles O21: nothing is listed, emitted or recorded at reset, and 0x200 fits the least legal `PC_WIDTH`. -/
theorem resetMeetsTheInvariants : Obligations.ResetMeetsTheInvariants := by
  intro cfg
  have hpc := Config.pcWidth_ge cfg
  refine ⟨⟨⟨.nil, by simp [State.resetWith]⟩, .nil, by simp [State.resetWith]⟩, fun r c => rfl, ?fault, ?shutdown, ?widths⟩
  case fault => exact ⟨fun h => absurd rfl h, fun h => nomatch h⟩
  case shutdown => exact List.not_mem_nil
  case widths =>
    refine ⟨show 0x200 < 2 ^ cfg.pcWidth.val by omega, Nat.two_pow_pos _, fun j hj => ?_⟩
    rw [State.resetWith, Vector.getElem_replicate]
    exact Nat.two_pow_pos _

end Sys2Proof.Machine
end

section
/-! Single steps: the CPU's turn, the outside world's turn, and the key wait (spec/70_reset_and_hazards.md R270, R271,
spec/60_exceptions.md sections 1, 4 and 6). -/

namespace Sys2Proof.Machine

/-! ### The CPU's turn -/

theorem CpuTurn.pc {s s0 : State} (h : CpuTurn s s0) : s0.pc = s.pc := h.envOnly.coreKept.pc

theorem CpuTurn.fetchWord {s s0 : State} (h : CpuTurn s s0) : s0.fetchWord = bigEndianAt s s.pc := by
  rw [h.envOnly]
  exact s.fetchWord_eq

/-- Settles O7: `step_of_decode`. -/
theorem stepRunsTheDecodedInstruction : Obligations.StepRunsTheDecodedInstruction := fun _ _ _ => step_of_decode

/-- Settles O8: the fetch check comes first, and it sees the `pc` of `s`. -/
theorem fetchPastTheTopFaults : Obligations.FetchPastTheTopFaults := by
  intro s s0 hr ht hpc
  have hcheck : memSize - 2 < s0.pc := ht.pc ▸ hpc
  rw [step_of_cpuTurn hr ht, cpuStep, if_pos hcheck, ← ht.pc]
  rfl

/-- A word that no row of the table selects is handed to the policy, with `pc` past it. -/
theorem step_of_unrecognized {s s0 : State} {e : DecodeError} (hr : s.RS = .running) (ht : CpuTurn s s0)
    (hp : s.pc ≤ 4094) (hd : decodeWord (bigEndianAt s s.pc) = .error e) :
    step s = .next (State.invalidOpcode { s0 with pc := s.pc + 2 } s.pc (bigEndianAt s s.pc)) := by
  have hcheck : ¬ memSize - 2 < s0.pc := Nat.not_lt.2 (ht.pc ▸ hp)
  rw [step_of_cpuTurn hr ht, cpuStep, if_neg hcheck, ht.fetchWord, hd, ht.pc, State.setPc]

/-- Settles O9: the two arms of the policy. -/
theorem unrecognizedWordFollowsThePolicy : Obligations.UnrecognizedWordFollowsThePolicy := by
  intro s s0 e hr ht hp hd
  have hcfg : s0.cfg = s.cfg := ht.envOnly.coreKept.cfg
  have hLOG : s0.LOG = s.LOG := ht.envOnly.coreKept.LOG
  rw [step_of_unrecognized hr ht hp hd]
  refine ⟨fun hpol => ?_, fun hpol => ?_⟩
  · simp only [State.invalidOpcode, hcfg, hpol, State.enterFault]
  · simp only [State.invalidOpcode, hcfg, hpol, hLOG]

/-- Settles O11: the store leaves V0 and V1 in the two bytes at `pc`, and the step runs what they decode to. -/
theorem nextFetchSeesTheStore : Obligations.NextFetchSeesTheStore := by
  intro s t x i hr hturns hx hI hfit hstore hd
  rw [exec_storeRegs_inside hfit] at hstore
  cases hstore
  have hpc := s.writeBytes_pc s.I (s.regsUpTo x)
  have h0 : (s.writeBytes s.I (s.regsUpTo x)).readByte s.I = s.reg 0 := s.readByte_storeRegs (r := 0) (Nat.zero_le _)
  have h1 : (s.writeBytes s.I (s.regsUpTo x)).readByte (s.I + 1) = s.reg 1 := s.readByte_storeRegs (r := 1) hx
  rw [step_of_decode (s0 := s.writeBytes s.I (s.regsUpTo x)) (i := i) ?running (.inl ⟨?turns, rfl⟩) ?fits ?word, hpc]
  case running => rw [State.writeBytes_RS, hr]
  case turns => rw [State.writeBytes_env, hturns]
  case fits => rw [hpc]; omega
  case word => rw [hpc, ← hI, bigEndianAt, h0, h1, hd]

/-! ### The outside world's turn -/

/-- An outside agent's turn changes the outside world alone. -/
theorem OutsideTurn.envOnly {s s0 : State} {e : OutsideStep} (h : OutsideTurn s e s0) : EnvOnly s s0 := by
  obtain ⟨ts, -, rfl⟩ := h
  rfl

theorem EnvOnly.RS {s s0 : State} (h : EnvOnly s s0) : s0.RS = s.RS := by rw [h]

theorem EnvOnly.reg {s s0 : State} (h : EnvOnly s s0) (r : RegIdx) : s0.reg r = s.reg r := by
  rw [h]
  rfl

theorem State.keyPress_of_waitKey {s : State} {x : RegIdx} (h : s.RS = .waitKey x) (k : Nibble) :
    s.outsideStep (.keyPress k) = (s.setReg x (k.setWidth 8)).setRS .running := by
  rw [State.outsideStep, State.deliverKey, h]

theorem State.keyPress_of_running {s : State} (h : s.RS = .running) (k : Nibble) : s.outsideStep (.keyPress k) = s := by
  rw [State.outsideStep, State.deliverKey, h]

/-- A key's number is its byte's value: the extension adds zeros. -/
theorem keyValue_toNat (k : Nibble) : (k.setWidth 8 : Byte).toNat = k.toNat := by
  have := k.isLt
  rw [BitVec.toNat_setWidth]
  exact Nat.mod_eq_of_lt (by omega)

/-- A key press in a wait: the key's number is in `Vx`, the other registers are kept. -/
theorem keyPress_reg {s s0 : State} (h0 : EnvOnly s s0) (x : RegIdx) (k : Nibble) :
    (((s0.setReg x (k.setWidth 8)).setRS .running).reg x).toNat = k.toNat ∧
      RegsKept (· = x) s ((s0.setReg x (k.setWidth 8)).setRS .running) := by
  refine ⟨?_, fun r hr => ?_⟩
  · rw [State.reg_congr (State.setRS_V _ _), State.reg_setReg_same, keyValue_toNat]
  · rw [State.reg_congr (State.setRS_V _ _), s0.setReg_regsKept x _ r hr, h0.reg]

/-- Settles O12: the two arms of key delivery for a run that is going on. -/
theorem keyPressEndsTheWait : Obligations.KeyPressEndsTheWait := by
  intro s s0 k ht
  have h0 := ht.envOnly
  refine ⟨fun x hr => ?_, fun hr => ?_⟩
  · obtain ⟨hkey, hkept⟩ := keyPress_reg h0 x k
    refine ⟨_, step_of_outsideTurn (.inr ⟨x, hr⟩) ht, ?_⟩
    rw [State.keyPress_of_waitKey (h0.RS.trans hr)]
    exact ⟨hkey, hkept, rfl⟩
  · rw [step_of_outsideTurn (.inl hr) ht, State.keyPress_of_running (h0.RS.trans hr)]

theorem State.cancel_of_enabled {s : State} (h : s.RS = .running ∨ ∃ x, s.RS = .waitKey x) :
    s.outsideStep .cancel = s.setRS .stopped := by
  rcases h with h | ⟨x, h⟩ <;> rw [State.outsideStep, State.cancel, h]

/-- Settles O13: cancel is enabled in both run states and sets the run state alone. -/
theorem cancelOnlyStopsTheRun : Obligations.CancelOnlyStopsTheRun := by
  intro s s0 ht hr
  rw [step_of_outsideTurn hr ht, State.cancel_of_enabled (by rwa [ht.envOnly.RS])]
  rfl

theorem State.tick_off {s : State} (h : s.cfg.timerTick = .off) : s.outsideStep .tick = s := by
  rw [State.outsideStep, State.tick, h]

theorem State.tick_on {s : State} (h : s.cfg.timerTick = .on) (hr : s.RS = .running ∨ ∃ x, s.RS = .waitKey x) :
    s.outsideStep .tick = s.countDown := by
  rcases hr with hr | ⟨x, hr⟩ <;> rw [State.outsideStep, State.tick, h, hr]

/-- A tick lowers a timer by 1 and stops at 0 (G3). -/
theorem timerAfterTick_toNat (b : Byte) : (timerAfterTick b).toNat = b.toNat - 1 := by
  unfold timerAfterTick
  split
  · rename_i h; rw [h]; rfl
  · rename_i h; bv_omega

/-- Settles O14: a tick that exists counts both timers down (`timerAfterTick_toNat`), one that does not changes nothing. -/
theorem tickLowersTheTimers : Obligations.TickLowersTheTimers := by
  intro s s0 ht hr
  have hk := ht.envOnly.coreKept
  rw [step_of_outsideTurn hr ht]
  refine ⟨fun hon => ⟨_, rfl, ?_⟩, fun hoff => by rw [State.tick_off (hk.cfg ▸ hoff)]⟩
  rw [State.tick_on (hk.cfg ▸ hon) (by rwa [ht.envOnly.RS]), ht.envOnly]
  exact ⟨timerAfterTick_toNat s.DT, timerAfterTick_toNat s.ST, rfl⟩

/-! ### The key wait -/

theorem CoreKept.trans {s t u : State} (h : CoreKept s t) (h' : CoreKept t u) : CoreKept s u where
  pc := h'.pc.trans h.pc
  I := h'.I.trans h.I
  SP := h'.SP.trans h.SP
  STACK := h'.STACK.trans h.STACK
  MEM := h'.MEM.trans h.MEM
  FB := h'.FB.trans h.FB
  FR := h'.FR.trans h.FR
  EV := h'.EV.trans h.EV
  LOG := h'.LOG.trans h.LOG
  LOADPTR := h'.LOADPTR.trans h.LOADPTR
  cfg := h'.cfg.trans h.cfg

/-- What is next in a key wait, and the state it leaves. -/
inductive WaitChange (s : State) (x : RegIdx) (t : State) : Prop
  /-- nothing happens -/
  | nothing (h0 : EnvOnly s t) (hw : waitTurn s = none)
  /-- a key is delivered -/
  | key (k : Nibble) (s0 : State) (h0 : EnvOnly s s0) (hw : waitTurn s = some (.keyPress k))
      (ht : t = (s0.setReg x (k.setWidth 8)).setRS .running)
  /-- the run is cancelled -/
  | cancelled (s0 : State) (h0 : EnvOnly s s0) (hw : waitTurn s = some .cancel) (ht : t = s0.setRS .stopped)
  /-- a tick, which moves the timers when there are ticks at all -/
  | ticked (s0 : State) (h0 : EnvOnly s s0) (hw : waitTurn s = some .tick)
      (ht : t = s0 ∨ s.cfg.timerTick = .on ∧ t = s0.countDown)

theorem waitKey_change {s t : State} {x : RegIdx} (hr : s.RS = .waitKey x) (h : step s = .next t) :
    WaitChange s x t ∧ CoreKept s t := by
  obtain ⟨s0, h0, hs⟩ := step_of_waitKey hr
  have hr0 : s0.RS = .waitKey x := h0.RS.trans hr
  rw [hs] at h
  rcases hw : waitTurn s with _ | e <;> rw [hw] at h <;> cases h
  · exact ⟨.nothing h0 hw, h0.coreKept⟩
  · refine ⟨?_, h0.coreKept.trans (outsideStep_coreKept s0 e)⟩
    cases e with
    | keyPress k => exact .key k s0 h0 hw (State.keyPress_of_waitKey hr0 k)
    | cancel => exact .cancelled s0 h0 hw (State.cancel_of_enabled (.inr ⟨x, hr0⟩))
    | tick =>
      cases htick : s.cfg.timerTick with
      | off => exact .ticked s0 h0 hw (.inl (State.tick_off (h0.coreKept.cfg ▸ htick)))
      | on => exact .ticked s0 h0 hw (.inr ⟨htick, State.tick_on (h0.coreKept.cfg ▸ htick) (.inr ⟨x, hr0⟩)⟩)

/-- Settles O15: the four things that can be next (`waitKey_change`), each with its run state, registers and timers. -/
theorem waitEndsOnlyByKeyOrCancel : Obligations.WaitEndsOnlyByKeyOrCancel := by
  intro s t x hr h
  obtain ⟨hw, hk⟩ := waitKey_change hr h
  refine ⟨?ends, hk.pc, hk.I, ⟨hk.SP, hk.STACK⟩, State.readByte_congr hk.MEM hk.cfg, ⟨State.pixel_congr hk.FB, hk.EV⟩,
    hk.FR, hk.LOG, ⟨hk.LOADPTR, hk.cfg⟩, ?timers⟩
  case ends =>
    cases hw with
    | nothing h0 hw => exact .inr (.inr ⟨.inl hw, h0.RS.trans hr, by rw [h0]⟩)
    | key k s0 h0 hw ht =>
      obtain ⟨hkey, hkept⟩ := keyPress_reg h0 x k
      rw [ht]
      exact .inl ⟨k, hw, rfl, hkey, hkept⟩
    | cancelled s0 h0 hw ht => exact .inr (.inl ⟨hw, by rw [ht, State.setRS_RS], by rw [ht, State.setRS_V, h0]⟩)
    | ticked s0 h0 hw ht =>
      have hV : s0.V = s.V := by rw [h0]
      refine .inr (.inr ⟨.inr hw, ?_⟩)
      rcases ht with rfl | ⟨-, rfl⟩ <;> exact ⟨h0.RS.trans hr, hV⟩
  case timers =>
    intro hno
    cases hw with
    | nothing h0 _ => rw [h0]; exact ⟨rfl, rfl⟩
    | key k s0 h0 _ ht | cancelled s0 h0 _ ht => rw [ht, h0]; exact ⟨rfl, rfl⟩
    | ticked s0 h0 hw ht =>
      rcases ht with rfl | ⟨hon, -⟩
      · rw [h0]; exact ⟨rfl, rfl⟩
      · rcases hno with hoff | hne
        · rw [hon] at hoff; cases hoff
        · exact absurd hw hne

end Sys2Proof.Machine
end

section
/-! Values: arithmetic, logic, shifts, the random draw, the index register, the keypad and the timers (spec/41_load_alu.md,
spec/42_index_memory.md section 2, spec/44_keypad_timers_system.md). -/

namespace Sys2Proof.Machine

/-! ### Result first, flag last (spec/41_load_alu.md R140) -/

section
variable (s : State) (x : RegIdx) (b : Byte) (c : Bool)

theorem State.flag_setResultAndFlag : (s.setResultAndFlag x b c).reg flagReg = flagByte c := by
  rw [State.reg_setResultAndFlag, if_pos rfl]

theorem State.result_setResultAndFlag (hx : x ≠ flagReg) : (s.setResultAndFlag x b c).reg x = b := by
  rw [State.reg_setResultAndFlag, if_neg hx, if_pos rfl]

/-- The flag as a number: 1 when its condition holds, and 0 otherwise. -/
theorem State.flag_toNat_setResultAndFlag (p : Prop) [Decidable p] :
    ((s.setResultAndFlag x b (decide p)).reg flagReg).toNat = if p then 1 else 0 := by
  rw [State.flag_setResultAndFlag, flagByte_toNat]
  simp only [decide_eq_true_eq]

end

/-- Settles O37: the sum of bytes is modulo 256, the carry is asked of the sum of their values. -/
theorem addSetsCarry : Obligations.AddSetsCarry := by
  intro s x y
  refine ⟨_, rfl, fun hx => ?_, s.flag_toNat_setResultAndFlag x _ _⟩
  rw [s.result_setResultAndFlag x _ _ hx, BitVec.toNat_add]

/-- The difference of two bytes as an integer. -/
theorem toNat_sub_int (p q : Byte) : ((p - q).toNat : Int) = ((p.toNat : Int) - q.toNat) % 256 := by
  rw [BitVec.toNat_sub]
  have := q.isLt
  omega

/-- Settles O38: both differences by `toNat_sub_int`, each flag the comparison its rule names. -/
theorem subtractionsSetNotBorrow : Obligations.SubtractionsSetNotBorrow := by
  intro s x y
  refine ⟨⟨_, rfl, fun hx => ?_, s.flag_toNat_setResultAndFlag x _ _⟩,
    ⟨_, rfl, fun hx => ?_, s.flag_toNat_setResultAndFlag x _ _⟩⟩
  · rw [s.result_setResultAndFlag x _ _ hx, toNat_sub_int]
  · rw [s.result_setResultAndFlag x _ _ hx, toNat_sub_int]

/-- Settles O39: a shift by one halves or doubles; the bit shifted out is the low or the high bit as a number. -/
theorem shiftsSetTheBitShiftedOut : Obligations.ShiftsSetTheBitShiftedOut := by
  intro s x y
  have hv := (s.reg x).isLt
  refine ⟨⟨_, rfl, fun hx => ?half, ?lowBit⟩, ⟨_, rfl, fun hx => ?double, ?highBit⟩⟩
  case half => rw [s.result_setResultAndFlag x _ _ hx, BitVec.toNat_ushiftRight, Nat.shiftRight_eq_div_pow, pow_one]
  case lowBit =>
    rw [shiftedOutRight, s.flag_toNat_setResultAndFlag]
    split_ifs <;> omega
  case double =>
    rw [s.result_setResultAndFlag x _ _ hx, BitVec.toNat_shiftLeft, Nat.shiftLeft_eq, pow_one, Nat.mul_comm]
  case highBit =>
    rw [shiftedOutLeft, s.flag_toNat_setResultAndFlag]
    split_ifs <;> omega

/-! ### One register alone -/

theorem State.flag_setReg (s : State) {x : RegIdx} (b : Byte) (hx : x ≠ flagReg) :
    (s.setReg x b).reg flagReg = s.reg flagReg :=
  s.setReg_regsKept x b flagReg hx.symm

/-- Settles O36: the three results bit by bit; one write, so VF is kept unless it is `Vx`. -/
theorem logicIsBitwise : Obligations.LogicIsBitwise := by
  intro s x y
  refine ⟨⟨_, rfl, s.flag_setReg _, fun k => ?_⟩, ⟨_, rfl, s.flag_setReg _, fun k => ?_⟩,
    ⟨_, rfl, s.flag_setReg _, fun k => ?_⟩⟩
  · rw [State.reg_setReg_same, BitVec.getLsbD_or]
  · rw [State.reg_setReg_same, BitVec.getLsbD_and]
  · rw [State.reg_setReg_same, BitVec.getLsbD_xor]

theorem State.randomByte_supplied {s : State} {b : Byte} {bs : List Byte} (h : s.env.randoms = b :: bs) :
    s.randomByte = b ∧ s.afterRandomDraw.env.randoms = bs := by
  simp [State.randomByte, State.afterRandomDraw, h]

theorem State.randomByte_free {s : State} (h : s.env.randoms = []) : s.randomByte = Config.freeByte s.env.draws := by
  rw [State.randomByte, h]

/-- Settles O40: the register holds the draw masked by `kk`, and the two ways a draw is answered. -/
theorem randomIsMasked : Obligations.RandomIsMasked := by
  intro s x kk
  refine ⟨_, rfl, ?mask, fun b bs h => ?supplied, fun h => ?free⟩ <;> rw [State.reg_setReg_same]
  case mask => rw [BitVec.and_assoc, BitVec.and_not_self]; exact BitVec.and_zero
  case supplied =>
    obtain ⟨hb, hbs⟩ := State.randomByte_supplied h
    exact ⟨by rw [hb], hbs⟩
  case free => rw [State.randomByte_free h]

/-- Settles O41: each of the three sets `I` to the value its rule names. -/
theorem indexRegisterIsSet : Obligations.IndexRegisterIsSet := by
  intro s x nnn
  exact ⟨⟨s.setI nnn.toNat, rfl, s.setI_I _⟩, ⟨s.setI (s.indexPlus x), rfl, s.setI_I _, s.setI_V _⟩,
    ⟨s.setI (s.glyphAddr x), rfl, s.setI_I _⟩⟩

/-! ### Halt, keypad and timers -/

/-- Settles O50: both are one update of the run state, HALT after its event. -/
theorem haltAndKeyWaitSetTheRunState : Obligations.HaltAndKeyWaitSetTheRunState := fun _ _ => ⟨rfl, rfl⟩

theorem exec_skp (x : RegIdx) (s : State) :
    exec (.skp x) s = .next (s.afterKeypadQuery.skipIf (keybit s.keypadMask (s.reg x))) := rfl

theorem exec_sknp (x : RegIdx) (s : State) :
    exec (.sknp x) s = .next (s.afterKeypadQuery.skipIf (!keybit s.keypadMask (s.reg x))) := rfl

theorem keybit_eq_true (m : Word) (v : Byte) : keybit m v = true ↔ v.toNat ≤ 15 ∧ m.getLsbD v.toNat = true := by
  rw [keybit, Bool.and_eq_true, decide_eq_true_eq]

theorem State.keypadMask_supplied {s : State} {m : Word} {ms : List Word} (h : s.env.masks = m :: ms) :
    s.keypadMask = m ∧ s.afterKeypadQuery.env.masks = ms := by
  simp [State.keypadMask, State.afterKeypadQuery, h]

theorem State.keypadMask_free {s : State} (h : s.env.masks = []) : s.keypadMask = Config.freeMask s.env.draws := by
  rw [State.keypadMask, h]

/-- `pc` after the two keypad skips, on whatever mask is sampled. -/
theorem keypadSkip_pc (s : State) (x : RegIdx) :
    ((s.afterKeypadQuery.skipIf (keybit s.keypadMask (s.reg x))).pc =
      if (s.reg x).toNat ≤ 15 ∧ s.keypadMask.getLsbD (s.reg x).toNat = true then s.pc + 2 else s.pc) ∧
    ((s.afterKeypadQuery.skipIf (!keybit s.keypadMask (s.reg x))).pc =
      if (s.reg x).toNat ≤ 15 ∧ s.keypadMask.getLsbD (s.reg x).toNat = true then s.pc else s.pc + 2) := by
  rw [State.skipIf_pc, State.skipIf_pc, State.afterKeypadQuery_pc]
  simp only [Bool.not_eq_true', ← Bool.not_eq_true, keybit_eq_true, ite_not, and_self]

/-- Settles O51: `keypadSkip_pc` on the supplied mask, which is then used up, and on the free one. -/
theorem keypadSkipsTestOneBit : Obligations.KeypadSkipsTestOneBit := by
  intro s x
  have hpc := keypadSkip_pc s x
  refine ⟨_, _, exec_skp x s, exec_sknp x s, fun m ms h => ?_, fun h => ?_⟩
  · obtain ⟨hm, hms⟩ := State.keypadMask_supplied h
    rw [State.skipIf_env, State.skipIf_env]
    exact ⟨hms, hms, hm ▸ hpc⟩
  · rwa [State.keypadMask_free h] at hpc ⊢

/-- Settles O52: one register write or one timer write. -/
theorem timersAreCopied : Obligations.TimersAreCopied := by
  intro s x
  exact ⟨⟨s.setReg x s.DT, rfl, s.reg_setReg_same x _, s.setReg_DT x _⟩,
    ⟨s.setDT (s.reg x), rfl, s.setDT_DT _, s.setDT_ST _⟩, ⟨s.setST (s.reg x), rfl, s.setST_ST _, s.setST_DT _⟩⟩

/-! ### The `y` field of the shifts (spec/30_encoding.md R99) -/

theorem toNat_append_eq {m n : Nat} (a : BitVec m) (b : BitVec n) : (a ++ b).toNat = 2 ^ n * a.toNat + b.toNat := by
  rw [BitVec.toNat_append, ← Nat.shiftLeft_add_eq_or_of_lt b.isLt, Nat.shiftLeft_eq, Nat.mul_comm]

theorem encXYN_toNat (h : Nibble) (x y : RegIdx) (n : Nibble) :
    (encXYN h x y n).toNat = 4096 * h.toNat + (256 * x.toNat + (16 * y.toNat + n.toNat)) := by
  rw [encXYN_eq, encXK_eq, encA_toNat, toNat_append_eq, toNat_append_eq]
  rfl

/-- A word given by its number decodes to the instruction whose opcode has that number. -/
theorem decodeWord_ofNat {k : Nat} {i : Instr} (h : k = (encode i).toNat) : decodeWord (BitVec.ofNat 16 k) = .ok i := by
  rw [h, BitVec.ofNat_toNat, BitVec.setWidth_eq, decodeWord_encode]

/-- An instruction that writes `Vx` and VF from `Vx` alone does not see another register and does not write it. -/
theorem resultAndFlag_of_x {s t u : State} {x y : RegIdx} {b : Byte} (hy : y ≠ x) (f : Byte → Byte) (g : Byte → Bool)
    (ht : t = s.setResultAndFlag x (f (s.reg x)) (g (s.reg x)))
    (hu : u = (s.setReg y b).setResultAndFlag x (f ((s.setReg y b).reg x)) (g ((s.setReg y b).reg x))) :
    (y ≠ flagReg → t.reg y = s.reg y) ∧ u.reg x = t.reg x ∧ u.reg flagReg = t.reg flagReg := by
  have hx : (s.setReg y b).reg x = s.reg x := s.setReg_regsKept y b x hy.symm
  rw [hx] at hu
  subst ht hu
  refine ⟨fun hf => ?_, ?_, ?_⟩
  · rw [State.reg_setResultAndFlag, if_neg hf, if_neg hy]
  · rw [State.reg_setResultAndFlag, State.reg_setResultAndFlag, if_pos rfl, if_pos rfl]
  · rw [State.flag_setResultAndFlag, State.flag_setResultAndFlag]

/-- Settles O6: the sixteen words are opcodes of the shift, whose meaning does not mention `y`; a write to `Vy` changes
neither what it reads nor what it leaves (`resultAndFlag_of_x`). -/
theorem shiftsIgnoreTheYField : Obligations.ShiftsIgnoreTheYField := by
  intro x y
  refine ⟨decodeWord_ofNat ?shrWord, decodeWord_ofNat ?shlWord, fun i hi => ⟨fun y' s => ⟨rfl, rfl⟩, fun s b hy => ?_⟩⟩
  case shrWord =>
    rw [encode, encXYN_toNat]
    show _ = 4096 * 8 + (256 * x.toNat + (16 * y.toNat + 6))
    omega
  case shlWord =>
    rw [encode, encXYN_toNat]
    show _ = 4096 * 8 + (256 * x.toNat + (16 * y.toNat + 14))
    omega
  rcases hi with rfl | rfl
  · exact ⟨_, _, rfl, rfl, resultAndFlag_of_x hy (· >>> 1) shiftedOutRight rfl rfl⟩
  · exact ⟨_, _, rfl, rfl, resultAndFlag_of_x hy (· <<< 1) shiftedOutLeft rfl rfl⟩

end Sys2Proof.Machine
end

section
/-! Drawing: the pixels, the collision flag and the events of a sprite, and drawing it twice (spec/43_display.md section 3). -/

namespace Sys2Proof.Machine

theorem exec_drw_inside {s : State} {n : Nibble} (h : n = 0#4 ∨ s.I + n.toNat ≤ 4096) (x y : RegIdx) :
    exec (.drw x y n) s = .next (s.blit (s.drwPixels x y n)) :=
  execDrw_inside h x y

/-! ### One blit over distinct pixels -/

section
variable (s : State) {ps : List (Nat × Nat)} (hps : ps.Nodup)
include hps

theorem State.pixel_blit (r c : Nat) : (s.blit ps).pixel r c = (s.pixel r c ^^ decide ((r, c) ∈ ps)) :=
  Blit.run_get ⟨s.FB, s.EV, false⟩ ps hps r c

theorem State.EV_blit : (s.blit ps).EV = s.EV ++ ps.map fun p => .draw p.1 p.2 (!s.pixel p.1 p.2) :=
  Blit.run_ev ⟨s.FB, s.EV, false⟩ ps hps

theorem State.flag_blit : (s.blit ps).reg flagReg = flagByte (ps.any fun p => s.pixel p.1 p.2) := by
  rw [State.blit, State.reg_setFlag, if_pos rfl, Blit.run_coll _ _ hps, Bool.false_or]
  rfl

end

theorem State.reg_blit (s : State) (ps : List (Nat × Nat)) {r : RegIdx} (h : r ≠ flagReg) :
    (s.blit ps).reg r = s.reg r := by
  rw [State.blit, State.reg_setFlag, if_neg h]
  rfl

theorem flagByte_eq_one (c : Bool) : flagByte c = 1#8 ↔ c = true := by cases c <;> decide

theorem flagByte_zero_or_one (c : Bool) : flagByte c = 0#8 ∨ flagByte c = 1#8 := by cases c <;> decide

/-! ### One draw -/

section
variable (s : State) (x y : RegIdx) (n : Nibble)

/-- A draw inverts the pixels a sprite bit lands on, and keeps the others. -/
theorem State.pixel_draw (row col : Nat) :
    (spriteCovers s x y n row col → (s.blit (s.drwPixels x y n)).pixel row col = !s.pixel row col) ∧
    (¬ spriteCovers s x y n row col → (s.blit (s.drwPixels x y n)).pixel row col = s.pixel row col) := by
  rw [s.pixel_blit (s.drwPixels_nodup x y n), spriteCovers_iff]
  exact ⟨fun h => by rw [decide_eq_true h, Bool.xor_true], fun h => by rw [decide_eq_false h, Bool.xor_false]⟩

/-- After a blit of the sprite's pixels on any screen, VF is 1 exactly when a covered pixel was 1 on that screen. -/
theorem State.flag_draw (t : State) :
    (t.blit (s.drwPixels x y n)).reg flagReg = 1#8 ↔
      ∃ row col, spriteCovers s x y n row col ∧ t.pixel row col = true := by
  rw [t.flag_blit (s.drwPixels_nodup x y n), flagByte_eq_one, List.any_eq_true, Prod.exists]
  simp only [spriteCovers_iff]

end

/-- Settles O47: the sprite's pixels are distinct, so each covered pixel is inverted once, and the collision is asked of the
screen before the draw. -/
theorem drawInvertsTheCoveredPixels : Obligations.DrawInvertsTheCoveredPixels := by
  intro s x y n h
  refine ⟨_, exec_drw_inside h x y, fun row col => (s.pixel_draw x y n row col).1,
    fun row col => (s.pixel_draw x y n row col).2, s.flag_draw x y n s, ?_⟩
  rw [s.flag_blit (s.drwPixels_nodup x y n)]
  exact flagByte_zero_or_one _

/-! ### The drawing order -/

theorem spriteRowPixels_eq_flatMap (d : Display) (x0 row : Nat) (b : Byte) :
    spriteRowPixels d x0 row b =
      (List.range 8).flatMap fun p => if spriteBit b p then [(row, (x0 + p) % d.width)] else [] := by
  rw [spriteRowPixels]
  generalize List.range 8 = l
  induction l with
  | nil => rfl
  | cons p l ih => by_cases h : spriteBit b p <;> simp [h, ih]

/-- The pixels of the rows from `r` on, row by row. -/
theorem spritePixels_eq_flatMap (d : Display) (x0 y0 r n : Nat) (row : Nat → Byte) :
    spritePixels d x0 y0 r ((List.range' r n).map row) =
      (List.range' r n).flatMap fun j => spriteRowPixels d x0 ((y0 + j) % d.height) (row j) := by
  induction n generalizing r with
  | zero => rfl
  | succ n ih => rw [List.range'_succ, List.map_cons, spritePixels, ih, List.flatMap_cons]

theorem State.drwPixels_eq_flatMap (s : State) (x y : RegIdx) (n : Nibble) :
    s.drwPixels x y n = (List.range n.toNat).flatMap fun r => (List.range 8).flatMap fun p =>
      if spriteBitAt s r p then [(spriteRow s y r, spriteCol s x p)] else [] := by
  rw [State.drwPixels, State.readBytes, List.range_eq_range' (n := n.toNat), spritePixels_eq_flatMap]
  simp only [spriteRowPixels_eq_flatMap]
  rfl

/-- Settles O48: one event per pixel in the order of the blit, which is the order of the sprite's bits. -/
theorem drawEmitsInOrder : Obligations.DrawEmitsInOrder := by
  intro s x y n h
  refine ⟨_, exec_drw_inside h x y, ?_⟩
  rw [s.EV_blit (s.drwPixels_nodup x y n), State.drwPixels_eq_flatMap]
  simp only [List.map_flatMap, apply_ite (List.map _), List.map_cons, List.map_nil]

/-! ### Drawing twice -/

/-- A draw leaves the sprite, and with coordinates outside VF its place, as they were. -/
theorem State.drwPixels_blit (s : State) (ps : List (Nat × Nat)) {x y : RegIdx} (hx : x ≠ flagReg) (hy : y ≠ flagReg)
    (n : Nibble) : (s.blit ps).drwPixels x y n = s.drwPixels x y n := by
  rw [State.drwPixels, s.reg_blit ps hx, s.reg_blit ps hy]
  rfl

/-- Settles O49: the second draw inverts the same pixels, and a covered pixel is 1 before it exactly when it was 0 before the
first; the canonical form of a screen is unique. -/
theorem drawingTwiceRestoresTheScreen : Obligations.DrawingTwiceRestoresTheScreen := by
  intro s t u x y n h hx hy ht hu
  have hts : t = s.blit (s.drwPixels x y n) := by
    rw [exec_drw_inside h] at ht
    exact (Host.Outcome.next.inj ht).symm
  have hut : u = t.blit (s.drwPixels x y n) := by
    have ht' : n = 0#4 ∨ t.I + n.toNat ≤ 4096 := by rw [hts]; exact h
    have hsame : t.drwPixels x y n = s.drwPixels x y n := by rw [hts, s.drwPixels_blit _ hx hy]
    rw [exec_drw_inside ht', hsame] at hu
    exact (Host.Outcome.next.inj hu).symm
  have hnd := s.drwPixels_nodup x y n
  have hpixel : ∀ row col, u.pixel row col = s.pixel row col := fun row col => by
    rw [hut, t.pixel_blit hnd, hts, s.pixel_blit hnd, Bool.xor_assoc, Bool.xor_self, Bool.xor_false]
  refine ⟨hpixel, fun hc => ?canonical, ?flag⟩
  case canonical =>
    have hct := exec_keeps_canonical hc ht
    have hcu := exec_keeps_canonical hct hu
    have hcfg : u.cfg = s.cfg := by rw [hut, hts]; rfl
    exact Fb.wf_ext (hcfg ▸ hcu.2) hc.2 hpixel
  case flag =>
    rw [hut, s.flag_draw x y n t]
    refine exists_congr fun row => exists_congr fun col => and_congr_right fun hcov => ?_
    rw [hts, (s.pixel_draw x y n row col).1 hcov, Bool.not_eq_true']

end Sys2Proof.Machine
end

section
/-! Frames: what the instructions of one shape leave alone (spec/10_state.md section 1, spec/92_eei_decisions.md D12, D19). -/

namespace Sys2Proof.Machine

/-! ### The general registers -/

theorem State.setResultAndFlag_regsKept (s : State) (x : RegIdx) (b : Byte) (c : Bool) :
    RegsKept (fun r => r = x ∨ r = flagReg) s (s.setResultAndFlag x b c) := by
  intro r hr
  obtain ⟨hx, hf⟩ := not_or.1 hr
  rw [State.reg_setResultAndFlag, if_neg hf, if_neg hx]

theorem RegsKept.of_V {written : RegIdx → Prop} {s t : State} (h : t.V = s.V) : RegsKept written s t :=
  fun r _ => State.reg_congr h r

/-- No instruction writes a general register outside its destinations (spec/10_state.md R22, R23). -/
theorem exec_regsKept {i : Instr} {s t : State} (h : exec i s = .next t) : RegsKept (destRegs i) s t := by
  cases i with
  | ldImm | addImm | ldReg | orReg | andReg | xorReg | ldVxDT => cases h; exact s.setReg_regsKept _ _
  | addReg | subReg | shr | subnReg | shl => cases h; exact s.setResultAndFlag_regsKept _ _ _
  | rnd x kk =>
    cases h
    intro r hr
    rw [s.afterRandomDraw.setReg_regsKept x _ r hr, State.reg_congr s.afterRandomDraw_V]
  | drw x y n =>
    rcases rangeCheck_cases h with rfl | rfl
    · exact .of_V rfl
    · exact fun r => s.reg_blit _
  | loadRegs x =>
    rcases rangeCheck_cases h with rfl | rfl
    · exact .of_V rfl
    · exact fun r hr => (s.reg_loadRegsUpTo x r).trans (if_neg hr)
  | ldB | storeRegs =>
    rcases rangeCheck_cases h with rfl | rfl
    · exact .of_V rfl
    · exact .of_V (s.writeBytes_V _ _)
  | ret => rcases exec_ret_cases h with ⟨-, rfl⟩ | ⟨_, rfl⟩ <;> exact .of_V rfl
  | call nnn => rcases exec_call_cases h with ⟨-, rfl⟩ | ⟨_, rfl⟩ <;> exact .of_V rfl
  | seImm | sneImm | seReg | sneReg => cases h; exact .of_V (s.skipIf_V _)
  | skp | sknp => cases h; exact .of_V ((State.skipIf_V _ _).trans s.afterKeypadQuery_V)
  | halt | cls | jp | ldI | jpV0 | ldVxK | ldDTVx | ldSTVx | addIVx | ldF => cases h; exact .of_V rfl

/-- An instruction that leaves the flag does not count VF among its destinations. -/
theorem not_destRegs_flag {i : Instr} (h : leavesFlag i) : ¬ destRegs i flagReg := by
  cases i with
  | ldImm | addImm | ldReg | orReg | andReg | xorReg | rnd | ldVxDT => exact fun e => h e.symm
  | loadRegs x => exact fun hle => h (BitVec.eq_of_toNat_eq (Nat.le_antisymm (Nat.le_of_lt_succ x.isLt) hle))
  | addReg | subReg | shr | subnReg | shl | drw => exact h.elim
  | halt | cls | ret | jp | call | seImm | sneImm | seReg | sneReg | ldI | jpV0 | skp | sknp | ldVxK | ldDTVx | ldSTVx
  | addIVx | ldF | ldB | storeRegs => exact id

/-- Settles O25: VF is no destination of an instruction that leaves it, and the six others write a `flagByte` last. -/
theorem onlyTheFlagWritersWriteVF : Obligations.OnlyTheFlagWritersWriteVF := by
  intro i s t h
  refine ⟨fun hl => exec_regsKept h flagReg (not_destRegs_flag hl), ?_⟩
  rintro (⟨x, y, rfl | rfl | rfl | rfl | rfl⟩ | ⟨⟨x, y, n, rfl⟩, hf⟩)
  case inr =>
    rw [exec_drw_inside (drw_inside_of_not_faultsIn hf)] at h
    cases h
    rw [s.flag_blit (s.drwPixels_nodup x y n)]
    exact flagByte_zero_or_one _
  all_goals
    cases h
    rw [State.flag_setResultAndFlag]
    exact flagByte_zero_or_one _

/-! ### Instructions with a register result -/

theorem State.afterRandomDraw_envOnly (s : State) : EnvOnly s s.afterRandomDraw := by
  unfold State.afterRandomDraw
  split <;> rfl

/-- What an instruction with a register result can leave. -/
inductive RegisterChange (i : Instr) (s : State) : State → Prop
  | regs (V : Vector Byte 16) : RegisterChange i s { s with V := V }
  | random (x : RegIdx) (kk : Byte) (hi : i = .rnd x kk) (V : Vector Byte 16) (env : Environment) :
      RegisterChange i s { s with V := V, env := env }
  | fault (r : FaultRecord) (hf : faultsIn i s) : RegisterChange i s (s.enterFault r)

theorem registerResult_change {i : Instr} {s t : State} (hi : registerResult i) (h : exec i s = .next t) :
    RegisterChange i s t := by
  rcases hi with ⟨x, kk, rfl | rfl | rfl⟩ |
    ⟨x, y, rfl | rfl | rfl | rfl | rfl | rfl | rfl | rfl | rfl⟩ | ⟨x, rfl | rfl⟩
  case inl.inr.inr =>
    cases h
    rw [s.afterRandomDraw_envOnly]
    exact .random x kk rfl _ _
  case inr.inr.inr =>
    by_cases hf : 4095 < s.I + x.toNat
    · rw [exec_loadRegs_past hf] at h; cases h; exact .fault _ hf
    · rw [exec_loadRegs_inside (Nat.le_of_not_lt hf)] at h; cases h; exact .regs _
  all_goals
    cases h
    exact .regs _

/-- Settles O53: the registers by `exec_regsKept`; no shape touches the rest, but for the run state in a fault and the
outside world in a random draw. -/
theorem frameOfRegisterInstructions : Obligations.FrameOfRegisterInstructions := by
  intro i s t hi h
  have hchange := registerResult_change hi h
  obtain ⟨hpc, hI, hstack, htimers, hmem, hscreen, hhost⟩ : t.pc = s.pc ∧ t.I = s.I ∧ StackKept s t ∧ TimersKept s t ∧
      MemoryKept s t ∧ ScreenKept s t ∧ HostKept s t := by
    cases hchange <;>
      exact ⟨rfl, rfl, ⟨rfl, rfl⟩, ⟨rfl, rfl⟩, fun _ => rfl, ⟨fun _ _ => rfl, rfl⟩, ⟨rfl, rfl⟩⟩
  refine ⟨exec_regsKept h, hpc, hI, hstack, htimers, hmem, hscreen, ?run, hhost, ?env⟩
  case run =>
    cases hchange with
    | fault r hf => exact fun hn => absurd hf hn
    | regs | random => exact fun _ => ⟨rfl, rfl, rfl⟩
  case env =>
    cases hchange with
    | random x kk hi => exact fun hne => absurd hi (hne x kk)
    | regs | fault => exact fun _ => rfl

/-! ### Control transfers -/

theorem State.afterKeypadQuery_envOnly (s : State) : EnvOnly s s.afterKeypadQuery := by
  unfold State.afterKeypadQuery
  split <;> rfl

/-- What a control transfer can leave. -/
inductive ControlChange (i : Instr) (s : State) : State → Prop
  | jump (a : Nat) : ControlChange i s { s with pc := a }
  | keypad (x : RegIdx) (hi : i = .skp x ∨ i = .sknp x) (a : Nat) (env : Environment) :
      ControlChange i s { s with pc := a, env := env }
  | pop (hi : i = .ret) (a : Nat) (sp : Fin 17) : ControlChange i s { s with pc := a, SP := sp }
  | push (nnn : Addr12) (hi : i = .call nnn) (a w : Nat) (sp : Fin 17) (h : s.SP.val < 16) :
      ControlChange i s { s with pc := a, SP := sp, STACK := s.STACK.set s.SP.val w h }
  | fault (r : FaultRecord) (hf : faultsIn i s) : ControlChange i s (s.enterFault r)

theorem isSkip_change {i : Instr} {s t : State} (hi : isSkip i) (h : exec i s = .next t) : ControlChange i s t := by
  rcases hi with ⟨x, kk, rfl | rfl⟩ | ⟨x, y, rfl | rfl⟩ | ⟨x, rfl | rfl⟩
  case inr.inr.inl =>
    cases h
    rw [State.skipIf_eq, s.afterKeypadQuery_envOnly]
    exact .keypad x (.inl rfl) _ _
  case inr.inr.inr =>
    cases h
    rw [State.skipIf_eq, s.afterKeypadQuery_envOnly]
    exact .keypad x (.inr rfl) _ _
  all_goals
    cases h
    rw [State.skipIf_eq]
    exact .jump _

theorem controlTransfer_change {i : Instr} {s t : State}
    (hi : i = .ret ∨ (∃ nnn, i = .jp nnn ∨ i = .call nnn ∨ i = .jpV0 nnn) ∨ isSkip i) (h : exec i s = .next t) :
    ControlChange i s t := by
  rcases hi with rfl | ⟨nnn, rfl | rfl | rfl⟩ | hi
  · rcases exec_ret_cases h with ⟨hsp, rfl⟩ | ⟨_, rfl⟩
    · exact .fault _ (Fin.ext hsp)
    · exact .pop rfl _ _
  · cases h; exact .jump _
  · rcases exec_call_cases h with ⟨hsp, rfl⟩ | ⟨hsp, rfl⟩
    · exact .fault _ (Fin.ext hsp)
    · exact .push nnn rfl _ _ _ hsp
  · cases h; exact .jump _
  · exact isSkip_change hi h

/-- Settles O54: no shape of `ControlChange` touches the core's other state, and each clause has its one exception: a
fault, a call, a return, or a keypad query. -/
theorem frameOfControlTransfers : Obligations.FrameOfControlTransfers := by
  intro i s t hi h
  have hchange := controlTransfer_change hi h
  obtain ⟨hV, hI, htimers, hmem, hscreen, hhost⟩ : t.V = s.V ∧ t.I = s.I ∧ TimersKept s t ∧ MemoryKept s t ∧
      ScreenKept s t ∧ HostKept s t := by
    cases hchange <;> exact ⟨rfl, rfl, ⟨rfl, rfl⟩, fun _ => rfl, ⟨fun _ _ => rfl, rfl⟩, ⟨rfl, rfl⟩⟩
  refine ⟨hV, hI, htimers, hmem, hscreen, ?run, hhost, ?stack, ?pointer, ?entries, ?env⟩
  case run =>
    cases hchange with
    | fault r hf => exact fun hn => absurd hf hn
    | jump | keypad | pop | push => exact fun _ => ⟨rfl, rfl, rfl⟩
  case stack =>
    cases hchange with
    | push nnn hi => exact fun hne => absurd hi (hne nnn)
    | jump | keypad | pop | fault => exact fun _ => rfl
  case pointer =>
    cases hchange with
    | pop hi => exact fun hne => absurd hi hne
    | push nnn hi => exact fun _ hne => absurd hi (hne nnn)
    | jump | keypad | fault => exact fun _ _ => rfl
  case entries =>
    cases hchange with
    | push nnn hi a w sp hsp => exact fun j hj hne => Vector.getElem_set_ne hsp hj hne.symm
    | jump | keypad | pop | fault => exact fun _ _ _ => rfl
  case env =>
    cases hchange with
    | keypad x hi => exact fun hne => hi.elim (absurd · (hne x).1) (absurd · (hne x).2)
    | jump | pop | push | fault => exact fun _ => rfl

/-! ### Index, timers, halt and key wait -/

/-- Settles O55: each of these instructions is one update of its target. -/
theorem frameOfIndexTimerAndSystem : Obligations.FrameOfIndexTimerAndSystem := by
  intro s nnn x i t h
  refine ⟨?index, ?delay, ?sound, ?halt, ?wait⟩
  case index => rintro (rfl | rfl | rfl) <;> cases h <;> rfl
  case delay => rintro rfl; cases h; rfl
  case sound => rintro rfl; cases h; rfl
  case halt => rintro rfl; cases h; rfl
  case wait => rintro rfl; cases h; rfl

/-! ### Stores -/

/-- A store faults with no effect, or writes its block at `I`; `len` is the length of the block. -/
inductive StoreChange (i : Instr) (len : Nat) (s : State) : State → Prop
  | fault (r : FaultRecord) (hf : faultsIn i s) : StoreChange i len s (s.enterFault r)
  | store (bs : List Byte) (hlen : bs.length = len) (hf : ¬ faultsIn i s) : StoreChange i len s (s.writeBytes s.I bs)

theorem ldB_change {x : RegIdx} {s t : State} (h : exec (.ldB x) s = .next t) : StoreChange (.ldB x) 3 s t := by
  by_cases hf : 4093 < s.I
  · rw [exec_ldB_past hf] at h; cases h; exact .fault _ hf
  · rw [exec_ldB_inside (by omega)] at h; cases h; exact .store _ rfl hf

theorem storeRegs_change {x : RegIdx} {s t : State} (h : exec (.storeRegs x) s = .next t) :
    StoreChange (.storeRegs x) (x.toNat + 1) s t := by
  by_cases hf : 4095 < s.I + x.toNat
  · rw [exec_storeRegs_past hf] at h; cases h; exact .fault _ hf
  · rw [exec_storeRegs_inside (Nat.le_of_not_lt hf)] at h; cases h; exact .store _ (s.regsUpTo_length x) hf

theorem StoreChange.frame {i : Instr} {len : Nat} {s t : State} (h : StoreChange i len s t) :
    MemoryKeptOutside s.I len s t ∧ (faultsIn i s → MemoryKept s t) ∧ (¬ faultsIn i s → RunKept s t) ∧
      t = { s with MEM := t.MEM, RS := t.RS, FR := t.FR } := by
  cases h with
  | fault r hf => exact ⟨fun _ _ => rfl, fun _ _ => rfl, fun hn => absurd hf hn, rfl⟩
  | store bs hlen hf =>
    refine ⟨fun a ha => s.readByte_writeBytes_outside s.I bs a (hlen ▸ ha), fun hf' => absurd hf' hf,
      fun _ => ⟨s.writeBytes_RS _ _, s.writeBytes_FR _ _, s.writeBytes_LOG _ _⟩, ?_⟩
    rw [State.writeBytes_eq]

/-- Settles O56: `StoreChange.frame` with the length of each block. -/
theorem frameOfStores : Obligations.FrameOfStores := by
  rintro i s t x (rfl | rfl) h
  · obtain ⟨hout, hframe⟩ := (ldB_change h).frame
    exact ⟨fun _ => hout, nofun, hframe⟩
  · obtain ⟨hout, hframe⟩ := (storeRegs_change h).frame
    exact ⟨nofun, fun _ => hout, hframe⟩

/-! ### The display -/

/-- Settles O57: CLS touches screen and events, a draw also VF (`exec_regsKept`), and a draw that faults neither. -/
theorem frameOfDisplayInstructions : Obligations.FrameOfDisplayInstructions := by
  rintro i s t (rfl | ⟨x, y, n, rfl⟩) h
  · have hregs := exec_regsKept h
    cases h
    exact ⟨hregs, fun _ => rfl, fun _ => ⟨rfl, rfl, rfl⟩, False.elim, rfl⟩
  · have hregs := exec_regsKept h
    by_cases hf : faultsIn (.drw x y n) s
    · rw [exec_drw_past hf] at h
      cases h
      exact ⟨hregs, fun _ => rfl, fun hn => absurd hf hn, fun _ => ⟨rfl, fun _ _ => rfl, rfl⟩, rfl⟩
    · rw [exec_drw_inside (drw_inside_of_not_faultsIn hf)] at h
      cases h
      exact ⟨hregs, fun _ => rfl, fun _ => ⟨rfl, rfl, rfl⟩, fun hf' => absurd hf' hf, rfl⟩

end Sys2Proof.Machine
end
